-- ==== Sys2Proof/Word.lean ====
section
/-! DEFINITION. The words of the node's posts and signals, and the four-fold collection that counters, decoder slots and threshold groups share. -/

namespace Sys2Proof

/-- One byte of a post. -/
abbrev Byte := BitVec 8

/-- A value of sixteen levels, or a set of channels: channel `CHn` is bit `n` (Conventions, spec/00_scope.md). -/
abbrev Levels := BitVec 16

/-- A set of link flags: `Fn` is bit `n`. -/
abbrev FlagSet := BitVec 8

/-- A station number, 0 to 14. -/
abbrev Station := Fin 15

/-- A probe channel, CH0 to CH15. -/
abbrev Channel := Fin 16

/-- Four like things under the numbers 0 to 3: K0 to K3, D0 to D3, G0 to G3. -/
structure Quad (α : Type) where
  q0 : α
  q1 : α
  q2 : α
  q3 : α
  deriving DecidableEq, Repr

/-- The member with number `i`. -/
def Quad.get {α : Type} (q : Quad α) (i : Fin 4) : α :=
  match i.val with
  | 0 => q.q0
  | 1 => q.q1
  | 2 => q.q2
  | _ => q.q3

/-- The member with number `i` replaced. -/
def Quad.set {α : Type} (q : Quad α) (i : Fin 4) (x : α) : Quad α :=
  match i.val with
  | 0 => { q with q0 := x }
  | 1 => { q with q1 := x }
  | 2 => { q with q2 := x }
  | _ => { q with q3 := x }

/-- The same thing four times. -/
def Quad.fill {α : Type} (x : α) : Quad α := ⟨x, x, x, x⟩

/-- Each member changed by a function of its number and itself. -/
def Quad.mapIdx {α β : Type} (f : Fin 4 → α → β) (q : Quad α) : Quad β :=
  ⟨f 0 q.q0, f 1 q.q1, f 2 q.q2, f 3 q.q3⟩

/-- Each member changed by a function. -/
def Quad.map {α β : Type} (f : α → β) (q : Quad α) : Quad β :=
  ⟨f q.q0, f q.q1, f q.q2, f q.q3⟩

/-- The members in order of their numbers. -/
def Quad.toList {α : Type} (q : Quad α) : List α := [q.q0, q.q1, q.q2, q.q3]

end Sys2Proof
end

