-- ==== Sys2Proof/Syntax.lean ====
section
/-! DEFINITION. The commands a node takes: one constructor per row of spec/opcode_table.json. -/

namespace Sys2Proof

/-- An ORDER post that names the node's station or 15 and has at least two payload bytes (R156, R171).
The order code is the constructor's; `params` are the payload bytes from byte 2 on, laid out by R170. -/
structure OrderPost where
  /-- The sender field of the post's header. -/
  sender : Station
  /-- The post is addressed to all stations (destination 15), not to the node alone. -/
  toAll : Bool
  /-- Payload byte 1, which the answer echoes. -/
  tag : Byte
  /-- Payload bytes from byte 2 on. -/
  params : List Byte
  deriving DecidableEq, Repr

/-- The commands, in the order of the table. -/
inductive Instr where
  /-- R3. -/
  | configureChannels (o : OrderPost)
  /-- R5. -/
  | setSampling (o : OrderPost)
  /-- R56. -/
  | setCapture (o : OrderPost)
  /-- R59. -/
  | setCounter (o : OrderPost)
  /-- R102. -/
  | setDecoder (o : OrderPost)
  /-- R92. -/
  | loadBegin (o : OrderPost)
  /-- R93. -/
  | loadPart (o : OrderPost)
  /-- R41. -/
  | arm (o : OrderPost)
  /-- R46. -/
  | forceTrigger (o : OrderPost)
  /-- R49. -/
  | abort (o : OrderPost)
  /-- R51. -/
  | release (o : OrderPost)
  /-- R52. -/
  | standby (o : OrderPost)
  /-- A STREAM order whose setting byte is not OFF (R126, log 22). -/
  | streamOn (o : OrderPost)
  /-- A STREAM order whose setting byte is OFF (R127, log 22). -/
  | streamOff (o : OrderPost)
  /-- R137. -/
  | reduce (o : OrderPost)
  /-- R149. -/
  | reduceCancel (o : OrderPost)
  /-- R33. -/
  | readRecords (o : OrderPost)
  /-- R37. -/
  | search (o : OrderPost)
  /-- R175. -/
  | query (o : OrderPost)
  /-- R181. -/
  | readFault (o : OrderPost)
  /-- R181. -/
  | clearFault (o : OrderPost)
  /-- R182. -/
  | reset (o : OrderPost)
  /-- An ORDER post for the node whose code names no order, or whose payload holds no tag (R171). `payload` is all of it. -/
  | unknownOrder (sender : Station) (toAll : Bool) (payload : List Byte)
  /-- A SIGNAL post that passed the receive checks (R165). -/
  | signalReceipt (sender : Station) (flags : FlagSet) (origin : BitVec 48)
  /-- A MARK post that passed the receive checks (R167). -/
  | mark (sender : Station) (t0 : BitVec 48)
  /-- A post as heard, byte 0 to the last byte that was heard (R162, log 21). -/
  | postDiscarded (bytes : List Byte)
  /-- The input of a channel moves to a new voltage, in millivolts (R1, log 5). -/
  | transition (ch : Channel) (millivolts : Int)
  /-- R7, R8. -/
  | sample
  /-- R10. -/
  | activeEdge
  /-- R12. -/
  | holdSampleDue
  /-- R13. -/
  | delayLineDue
  /-- R117. -/
  | interlockedTimeout (slot : Fin 4)
  /-- R63, for a TICK occurrence of the counter (log 8). -/
  | counterExpiry (k : Fin 4)
  /-- R65, for a TICK occurrence of the counter (log 8). -/
  | counterOverflow (k : Fin 4)
  /-- R47. -/
  | depth
  /-- R44. -/
  | noTrigger
  /-- R48. -/
  | timeLimit
  /-- R94. -/
  | loadTimeout
  /-- R129. -/
  | batchTimeout
  /-- R151. -/
  | repeatTimerExpiry
  /-- R34. -/
  | readBuild
  /-- R38. -/
  | searchWalkEnd
  /-- R155. -/
  | lineIdle
  /-- R158. -/
  | postStart
  /-- R159. -/
  | sentInFull
  /-- R157. -/
  | withdrawn
  /-- R160. -/
  | collision
  /-- R168. -/
  | resetPin
  /-- R183, with the strap pins as they stand at the release. -/
  | resetPinRelease (stationStraps : BitVec 4) (rateStraps : BitVec 2)
  deriving DecidableEq, Repr

end Sys2Proof
end

