-- ==== Sys2Proof/Decode.lean ====
section
/-! DEFINITION. Reading a command from the bits of an opcode-table row. -/

namespace Sys2Proof

/-- No row of spec/opcode_table.json gives bits ("fields" is empty for all 49), so no word spells a command. -/
def decodeTableWord (_nbits _w : Nat) : Option Instr := none

end Sys2Proof
end

