-- ==== Sys2Proof/Machine/Bytes.lean ====
section
/-! DEFINITION. Byte order, two's complement, sets of channels and the post check: the conventions of R156 and R170. -/

namespace Sys2Proof.Machine

/-- The number whose bytes are given, most significant first (R170). -/
def beNat (bytes : List Byte) : Nat := bytes.foldl (fun n b => n * 256 + b.toNat) 0

/-- `n` in `w` bytes, most significant first (R170). -/
def beBytes : Nat → Nat → List Byte
  | 0, _ => []
  | w + 1, n => BitVec.ofNat 8 (n / 256 ^ w) :: beBytes w n

/-- The two's complement number that `w` bytes hold as the unsigned `n` (R170). -/
def signedOf (w n : Nat) : Int := if n < 2 ^ (8 * w - 1) then n else (n : Int) - 2 ^ (8 * w)

/-- `i` in `w` bytes of two's complement (R170). -/
def beSigned (w : Nat) (i : Int) : List Byte := beBytes w (i % (2 ^ (8 * w) : Nat)).toNat

/-- A field marked absent holds all ones (R176). -/
def absentBytes (w : Nat) : List Byte := List.replicate w 0xFF

/-- A field of `w` bytes that may be absent (R176). -/
def beOption (w : Nat) (n : Option Nat) : List Byte :=
  match n with
  | some n => beBytes w n
  | none => absentBytes w

/-- One byte from a number. -/
def byteOf (n : Nat) : Byte := BitVec.ofNat 8 n

/-- 1 for set or yes, 0 for clear or no (R176). -/
def flagByte (b : Bool) : Byte := if b then 1 else 0

/-- A station field holds 15 for none (R176). -/
def stationByte (s : Option Station) : Byte :=
  match s with
  | some s => byteOf s.val
  | none => 15

/-- The set holds the channel. -/
def hasChannel (v : Levels) (ch : Channel) : Bool := v.getLsbD ch.val

/-- The set of one channel. -/
def oneChannel (ch : Channel) : Levels := 1#16 <<< ch.val

/-- All channels in order. -/
def allChannels : List Channel := [0, 1, 2, 3, 4, 5, 6, 7, 8, 9, 10, 11, 12, 13, 14, 15]

/-- The members of a channel set in increasing order (R145). -/
def channelsOf (v : Levels) : List Channel := allChannels.filter (hasChannel v)

/-- The members of a set of four in increasing order. -/
def slotsOf (v : BitVec 4) : List (Fin 4) := ([0, 1, 2, 3] : List (Fin 4)).filter (fun i => v.getLsbD i.val)

/-- One bit fed to the check register (R156): shift up, and exclusive-or 1021h when the top bit differed from the bit. -/
def checkBit (reg : BitVec 16) (bit : Bool) : BitVec 16 :=
  if reg.msb == bit then reg <<< 1 else (reg <<< 1) ^^^ 0x1021

/-- One byte fed to the check register, bit 7 first (R156). -/
def checkByte (reg : BitVec 16) (b : Byte) : BitVec 16 :=
  [7, 6, 5, 4, 3, 2, 1, 0].foldl (fun r i => checkBit r (b.getLsbD i)) reg

/-- The check of a post: the register after every byte before it, from FFFFh (R156). -/
def postCheck (bytes : List Byte) : BitVec 16 := bytes.foldl checkByte 0xFFFF

/-- A whole post: header, payload, check, high byte first (R156). `dest` is `none` for all stations. -/
def framePost (cls : Nat) (sender : Station) (dest : Option Station) (payload : List Byte) : List Byte :=
  let front : List Byte :=
    [byteOf (cls * 32 + sender.val * 2 + (if dest.isNone then 1 else 0)), stationByte dest, byteOf payload.length]
      ++ payload
  front ++ beBytes 2 (postCheck front).toNat

end Sys2Proof.Machine
end

