-- ==== Sys2Proof/Config.lean ====
section
/-! DEFINITION. What the manual fixes for every node (capacities, timer units, identity codes) and the free values of the points it leaves open. -/

namespace Sys2Proof.Config

/-- The last value of the tick counter, 2^48-1 (R166). -/
abbrev tickMax : Nat := 2 ^ 48 - 1

/-- Record slots of the Capture Store (Fixed capacities). -/
abbrev storeCapacity : Nat := 65536

/-- Records of the decode queue (R123). -/
abbrev queueCapacity : Nat := 64

/-- Answers of the answer list (R172). -/
abbrev answerCapacity : Nat := 4

/-- Entries of the signal placement list (R22). -/
abbrev placementCapacity : Nat := 8

/-- Cell bytes of one COLUMNS post (R145). -/
abbrev cellCapacity : Nat := 112

/-- Records of one STREAM post (R129) and of one RECORDS post (R33). -/
abbrev postRecords : Nat := 8

/-- Ticks of 2.5 ns in one millisecond (R44). -/
abbrev ticksPerMs : Nat := 400000

/-- Ticks in one step of 100 us, the unit of the batch timeout (R129). -/
abbrev ticksPerBatchStep : Nat := 40000

/-- Ticks in 20 ms, the load gap time (R94). -/
abbrev loadGapTicks : Nat := 8000000

/-- Ticks in 10 ms, the unit of the repeat period (R137). -/
abbrev ticksPerRepeatStep : Nat := 4000000

/-- The idle bit times a node waits beyond the 11 of idle while the retry wait is set (R160). -/
abbrev retryBits : Nat := 64

/-- The family code that PRESENT carries (R183). -/
abbrev familyCode : Nat := 0x1640

/-- The revision code that PRESENT carries (R183). -/
abbrev revision : Nat := 2

/-- The largest saturating loss count and missed-edge count (R14, R125). -/
abbrev countMax : Nat := 65535

/-- FREE VALUE (log 13): the first sequence of the NOT_FOUND post of a search that had no record to start at.
R38 names it by the start of a walk that does not exist there. -/
opaque freeSequence : Nat → BitVec 48

/-- FREE VALUE (log 14): the window start carried by the end post of a pass under a NEWEST reference that never began.
R147 asks for the W of that pass, which was never reckoned. -/
opaque freeWindow : Nat → BitVec 56

/-- FREE VALUE (log 15): whether a QUERY figure given in steps counts the step that is only partly past.
R134 and R153 give the unit and no rounding. -/
opaque freeRoundsUp : Nat → Bool

/-- FREE VALUE (log 40): how many of the records that one sample completed met the decode queue after the places that a STREAM
post freed at that instant (R125 lets it fall between any two of them). -/
opaque freeLater : Nat → Nat

end Sys2Proof.Config
end

