-- ==== Sys2Proof/Machine/State.lean ====
section
/-! DEFINITION. The state of the node, block by block as the manual names its items, and its reset value. -/

namespace Sys2Proof.Machine

/-! ## Names -/

/-- The capture state (R40). -/
inductive CapState where
  | idle | armed | triggered | done | standby
  deriving DecidableEq, Repr

/-- The completion reason (R40). -/
inductive Reason where
  | none | depth | storeLimit | noTrigger | aborted | timeLimit
  deriving DecidableEq, Repr

/-- An edge setting. `either` is BOTH for the state clock and EITHER elsewhere (R170). -/
inductive Edge where
  | rising | falling | either
  deriving DecidableEq, Repr

/-- The sampling mode (R5). -/
inductive SampleMode where
  | timing | state
  deriving DecidableEq, Repr

/-- The state-clock type (R5). -/
inductive ClockType where
  | edge | hold | delayed
  deriving DecidableEq, Repr

/-- One of the two exits of a stage (R77). -/
inductive BranchId where
  | primary | alternate
  deriving DecidableEq, Repr

/-- The kind of a decode record (R99). -/
inductive RecKind where
  | data | command | brk
  deriving DecidableEq, Repr

/-- An answer's status (R174). -/
inductive Status where
  | ok | clamped | state | busy | range | conflict | sequence | check | unknown | length
  deriving DecidableEq, Repr

/-! ## Probe Front End and Sampler -/

/-- A member of the wake set (R18). -/
structure WakeMember where
  ch : Channel
  edge : Edge
  deriving DecidableEq, Repr

/-- The Probe Front End (R1 to R4, R18). -/
structure Pfe where
  /-- The voltage at each probe input, in millivolts; the detected level is computed from it (R1, log 5). -/
  inputs : Vector Int 16
  enabled : Levels
  inverted : Levels
  /-- Group thresholds in steps of 25 mV. -/
  thresholds : Quad Int
  activity : Levels
  wakeSet : List WakeMember
  deriving DecidableEq, Repr

/-- The sampling settings (R5). -/
structure SamplerSettings where
  mode : SampleMode
  /-- The divisor D, 1 to 65,536. -/
  divisor : Nat
  clockChannel : Channel
  clockEdge : Edge
  qualifier : Option Channel
  qualifyingLevel : Bool
  clockType : ClockType
  tdFactor : Nat
  tdMultiplier : Nat
  deriving DecidableEq, Repr

/-- The capture sampling record (R6). -/
structure SamplingRecord where
  mode : SampleMode
  divisor : Nat
  deriving DecidableEq, Repr

/-- A run of equal samples (R15). `lastTick` is present in state mode alone. -/
structure Run where
  value : Levels
  mask : Levels
  start : Nat
  length : Nat
  lastTick : Option Nat
  deriving DecidableEq, Repr

/-- The pending HOLD sample (R12). -/
structure HoldSample where
  edgeTick : Nat
  due : Nat
  activeLevel : Bool
  /-- A missed edge came before this sample's edge, so a STATE_OVERRUN marker precedes the sample (R14). -/
  afterMiss : Bool
  deriving DecidableEq, Repr

/-- A scheduled sample of the delay line (R13). -/
structure DelayEntry where
  due : Nat
  afterMiss : Bool
  deriving DecidableEq, Repr

/-- A transition of the clock channel that ACTIVE_EDGE has still to examine (R10). -/
structure ClockEdge where
  tick : Nat
  level : Bool
  /-- The qualifier channel's level at `tick`, after every transition stamped so far; HIGH when the qualifier is absent. -/
  qualifier : Bool
  deriving DecidableEq, Repr

/-- A reading of the levels at the instant of a tick (R1). -/
structure LevelsRead where
  tick : Nat
  levels : Levels
  deriving DecidableEq, Repr

/-- The Sampler (R5 to R17). -/
structure Sampler where
  settings : SamplerSettings
  record : SamplingRecord
  openRun : Option Run
  missed : Nat
  /-- An edge was missed after the last taken edge (R14, log 20). -/
  missSinceTaken : Bool
  lastTaken : Option Nat
  hold : Option HoldSample
  delayLine : List DelayEntry
  clockEdges : List ClockEdge
  nextIndex : Nat
  prevValue : Option Levels
  lastSampleTick : Option Nat
  /-- The last tick whose levels were read, by a sample or by an active edge with a qualifier, with those levels (R1, log 4). -/
  levelsRead : Option LevelsRead
  /-- Channels with at least one transition since the previous sample (R9). -/
  movedOnce : Levels
  /-- Channels with at least two transitions since the previous sample (R9). -/
  movedTwice : Levels
  deriving DecidableEq, Repr

/-! ## Decode records and store records -/

/-- The error set of a decode record (R99). -/
structure DecodeErrors where
  parity : Bool := false
  framing : Bool := false
  short : Bool := false
  runt : Bool := false
  stall : Bool := false
  deriving DecidableEq, Repr

/-- A decode record as its slot completes it (R99). `runCount` is the repeat field. -/
structure DecodeRecord where
  slot : Fin 4
  kind : RecKind
  value : BitVec 16
  bits : Nat
  runCount : Option Nat
  start : Nat
  duration : Nat
  errors : DecodeErrors
  deriving DecidableEq, Repr

/-- The cause of a trigger (R19). -/
inductive Cause where
  | stage (stage : Fin 8) (branch : BranchId)
  | forced
  deriving DecidableEq, Repr

/-- A store record (R19). Its sequence number is its place in the store (R20). -/
inductive Record where
  | run (r : Run)
  | trigger (tick : Nat) (cause : Cause)
  | stage (tick : Nat) (fromStage toStage : Fin 8) (branch : BranchId)
  /-- The sender is 15 for a merged entry (R22). -/
  | signalIn (tick receipt : Nat) (sender : Fin 16) (flags : FlagSet) (origin : Nat)
  | stateOverrun (tick missed : Nat)
  /-- `endTick` is the close tick by which the copy was placed (R20). -/
  | decode (r : DecodeRecord) (endTick : Nat)
  deriving DecidableEq, Repr

/-- The trigger position (R24). -/
structure TriggerPosition where
  sequence : Nat
  n0 : Nat
  deriving DecidableEq, Repr

/-- An entry of the signal placement list (R22). -/
structure SignalEntry where
  sender : Fin 16
  flags : FlagSet
  origin : Nat
  receipt : Nat
  deriving DecidableEq, Repr

/-- The Capture Store (R19 to R31). `records` are in write order, oldest first; the newest has sequence number `nextSeq` - 1,
so the retained sequences run without a gap. -/
structure Store where
  records : List Record
  nextSeq : Nat
  /-- The pre-trigger floor F (R29). -/
  floor : Nat
  trigger : Option TriggerPosition
  placement : List SignalEntry
  lastRef : Option Nat
  deriving DecidableEq, Repr

/-! ## Readout -/

/-- A search direction (R37). -/
inductive Direction where
  | forward | backward
  deriving DecidableEq, Repr

/-- A marker kind a search can name (R37). -/
inductive MarkerKind where
  | trigger | stage | signalIn | stateOverrun
  deriving DecidableEq, Repr

/-- A search criterion (R37). -/
inductive Criterion where
  | runPattern (pattern mask : Levels)
  | decodeWord (slot : Fin 4) (kind : RecKind) (value mask : BitVec 16)
  | marker (kind : MarkerKind)
  deriving DecidableEq, Repr

/-- A built RECORDS post (R34). -/
structure RecordsPost where
  dest : Station
  firstSeq : Nat
  records : List Record
  atEnd : Bool := false
  overwritten : Bool := false
  discarded : Bool := false
  notFound : Bool := false
  deriving DecidableEq, Repr

/-- A read being built (R34). -/
structure ReadJob where
  dest : Station
  /-- The sequence the read starts at. -/
  firstSeq : Nat
  /-- How many records the selection names: the count, or fewer for PREVIOUS at the oldest record. -/
  want : Nat
  /-- The count of the order. -/
  count : Nat
  /-- PREVIOUS: the far end of the read is its lowest record (R35). -/
  downward : Bool
  /-- The records copied into the post buffer. -/
  copied : List Record
  /-- The order's ANSWER has not been sent in full yet. -/
  waitsForAnswer : Bool
  deriving DecidableEq, Repr

/-- A search walk in progress (R38), with the sequence at which it started. -/
structure WalkJob where
  dest : Station
  criterion : Criterion
  direction : Direction
  start : Nat
  deriving DecidableEq, Repr

/-- The readout unit's job (R32). -/
inductive Readout where
  | free
  | building (job : ReadJob)
  | walking (job : WalkJob)
  | holding (post : RecordsPost)
  deriving DecidableEq, Repr

/-! ## Capture Control -/

/-- Capture Control (R40 to R58). -/
structure CaptureControl where
  state : CapState
  reason : Reason
  postDepth : Nat
  countdown : Nat
  /-- The arm time limit in ms, 0 for none. -/
  armLimit : Nat
  /-- The expiry tick of the running arm-limit timer. -/
  armTimer : Option Nat
  forcePending : Bool
  returnState : Option CapState
  /-- The wake action is ARM. -/
  wakeArm : Bool
  deriving DecidableEq, Repr

/-! ## Counters -/

/-- A counter's mode (R59). -/
inductive CounterMode where
  | off | count | period | gated | cascade
  deriving DecidableEq, Repr

/-- A counter's source (R59). -/
inductive CounterSource where
  | sample | tick1 | tick16 | tick256 | tick4096 | edge
  deriving DecidableEq, Repr

/-- The kind of event the sequencer sees from a counter (R70). -/
inductive EventKind where
  | expiry | capture | overflow
  deriving DecidableEq, Repr

/-- The settings of one counter (R59). -/
structure CounterSettings where
  mode : CounterMode
  source : CounterSource
  sourceChannel : Channel
  sourceEdge : Edge
  periodChannel : Channel
  periodEdge : Edge
  /-- The reload R, 1 to 65,536. -/
  reload : Nat
  oneshot : Bool
  select : EventKind
  deriving DecidableEq, Repr

/-- One counter (R61 to R76). -/
structure Counter where
  settings : CounterSettings
  value : Nat
  latch : Nat
  expired : Bool
  overflow : Bool
  latchMark : Bool
  gateOpen : Bool
  /-- The selected event was raised since the previous sample (R71). -/
  raised : Bool
  /-- A partner expiry of the present tick waits until the tick's occurrences are counted (R66, log 9). -/
  gateDue : Bool
  /-- TICK occurrences are counted up to this tick (R61). -/
  countedTo : Nat
  deriving DecidableEq, Repr

/-- The Counter Bank. -/
structure CounterBank where
  k : Quad Counter
  /-- The cascade setting of K0/K1 (R60). -/
  cascade01 : Bool
  /-- The cascade setting of K2/K3 (R60). -/
  cascade23 : Bool
  deriving DecidableEq, Repr

/-! ## Trigger Sequencer -/

/-- The error selector of a DECODE condition (R80). -/
inductive ErrorSelector where
  | any | none | some
  deriving DecidableEq, Repr

/-- A condition (R78). -/
inductive Condition where
  | always
  | pattern (value mask : Levels) (hold : Nat)
  | edge (ch : Channel) (dir : Edge)
  | decode (slot : Fin 4) (kind : RecKind) (value mask : BitVec 16) (errors : ErrorSelector)
  | counter (k : Fin 4) (range : Option (Nat × Nat))
  | flag (flags : FlagSet) (all : Bool)
  deriving DecidableEq, Repr

/-- A branch's combiner (R81). -/
inductive Combiner where
  | a | aAndB | aOrB | aAndNotB
  deriving DecidableEq, Repr

/-- One branch of a stage (R77). -/
structure Branch where
  condA : Condition
  condB : Option Condition
  combiner : Combiner
  /-- The count mode is SAMPLES, not EVENTS. -/
  countsSamples : Bool
  /-- The occurrence count N, 1 to 65,536. -/
  count : Nat
  nextStage : Fin 8
  trigger : Bool
  raises : FlagSet
  restarts : BitVec 4
  marker : Bool
  deriving DecidableEq, Repr

/-- One stage (R77). -/
structure Stage where
  primary : Branch
  alternate : Option Branch
  deriving DecidableEq, Repr

/-- The hold counts of a branch's two conditions (R79); 0 where the condition is no PATTERN. -/
structure BranchHolds where
  a : Nat
  b : Nat
  deriving DecidableEq, Repr

/-- The hold counts of a stage. -/
structure StageHolds where
  primary : BranchHolds
  alternate : BranchHolds
  deriving DecidableEq, Repr

/-- A program load in progress (R92). The bytes received are the length of `staged`. -/
structure Load where
  owner : Station
  total : Nat
  stages : Nat
  staged : List Byte
  deriving DecidableEq, Repr

/-- The Trigger Sequencer (R77 to R98). -/
structure Sequencer where
  program : List Stage
  isDefault : Bool
  stage : Fin 8
  primaryCount : Nat
  alternateCount : Nat
  primaryPrev : Option Bool
  alternatePrev : Option Bool
  /-- One entry per stage of the program. -/
  holds : List StageHolds
  heard : FlagSet
  load : Option Load
  deriving DecidableEq, Repr

/-! ## Decoder Bank -/

/-- A line with the level that makes it active. -/
structure ActiveLine where
  ch : Channel
  active : Bool
  deriving DecidableEq, Repr

/-- ASYNC parity (R104). -/
inductive Parity where
  | none | even | odd | mark | space
  deriving DecidableEq, Repr

/-- ASYNC stop bits (R104). -/
inductive StopBits where
  | one | oneAndHalf | two
  deriving DecidableEq, Repr

/-- ASYNC settings (R104). -/
structure AsyncSettings where
  data : Channel
  idle : Bool
  bits : Nat
  parity : Parity
  stop : StopBits
  msbFirst : Bool
  /-- The bit period P in sixteenths of a sample. -/
  period : Nat
  deriving DecidableEq, Repr

/-- CLOCKED settings (R110). -/
structure ClockedSettings where
  clock : Channel
  rising : Bool
  data : Channel
  select : Option ActiveLine
  wordLength : Nat
  msbFirst : Bool
  deriving DecidableEq, Repr

/-- STROBED handshake (R113). -/
inductive Handshake where
  | leading | trailing | pulse | interlocked
  deriving DecidableEq, Repr

/-- The acknowledge line of a STROBED slot, with its timeout T in samples (R113). -/
structure AckSettings where
  line : ActiveLine
  timeout : Nat
  deriving DecidableEq, Repr

/-- STROBED settings (R113). -/
structure StrobedSettings where
  base : Channel
  width : Nat
  strobe : ActiveLine
  handshake : Handshake
  /-- The minimum width W in samples. -/
  minWidth : Nat
  ack : Option AckSettings
  selector : Option Channel
  runPrefixing : Bool
  deriving DecidableEq, Repr

/-- A slot's kind with its settings (R102). -/
inductive DecoderKind where
  | off
  | async (c : AsyncSettings)
  | clocked (c : ClockedSettings)
  | strobed (c : StrobedSettings)
  deriving DecidableEq, Repr

/-- A word in progress (R100). -/
inductive WordProgress where
  /-- An ASYNC frame: s0's index and tick, the next bit position, the bits read after the start bit (R105, R106). -/
  | async (s0Index s0Tick next : Nat) (read : List Bool)
  /-- A CLOCKED word: its start tick and the bits held, in the order they came (R111). -/
  | clocked (start : Nat) (held : List Bool)
  /-- A STROBED cycle: the active edge's tick and index, and the word an INTERLOCKED slot has latched (R114, R117). -/
  | strobed (start index : Nat) (latched : Option (BitVec 16 × RecKind))
  deriving DecidableEq, Repr

/-- A slot's phase, with the word while one is in progress (R100). -/
inductive Phase where
  | stopped
  | hunting
  | inWord (w : WordProgress)
  | recovering
  deriving DecidableEq, Repr

/-- One decoder slot (R100, R102). `pendingRun` is the pending prefix's repeat (R118). -/
structure Slot where
  kind : DecoderKind
  storeCopies : Bool
  stream : Bool
  phase : Phase
  idleSeen : Bool
  pendingRun : Option Nat
  deriving DecidableEq, Repr

/-- The Decoder Bank, with the copy set of R144. -/
structure DecoderBank where
  slots : Quad Slot
  copySet : BitVec 4
  deriving DecidableEq, Repr

/-! ## Streamer -/

/-- A queued decode record (R123). -/
structure QueuedRecord where
  body : DecodeRecord
  lostBefore : Nat
  /-- The elapsed time at which the record joined. -/
  entry : Nat
  deriving DecidableEq, Repr

/-- A record that met the full queue (R125), with its slot's loss count before it and the elapsed time. -/
structure LostRecord where
  body : DecodeRecord
  countBefore : Nat
  time : Nat
  deriving DecidableEq, Repr

/-- The Streamer (R123 to R135). -/
structure Streamer where
  on : Bool
  dest : Option Station
  /-- The mode is BATCH, not SINGLE. -/
  batch : Bool
  /-- The batch threshold T. -/
  threshold : Nat
  /-- The batch timeout W in steps of 100 us. -/
  timeout : Nat
  /-- Oldest first. -/
  queue : List QueuedRecord
  losses : Quad Nat
  /-- How many records at the head are in flight (R130). -/
  inFlight : Nat
  /-- A discard was taken while they were in flight (R132). -/
  discardMarked : Bool
  /-- The oldest record has reached its age limit (R129, log 33). -/
  ageReached : Bool
  /-- The records lost at the elapsed time of the latest loss, in slot order (R125, log 40). -/
  lostNow : List LostRecord
  deriving DecidableEq, Repr

/-! ## Column Engine -/

/-- A window reference (R137). -/
inductive Reference where
  | trigger | newest | epoch
  deriving DecidableEq, Repr

/-- The REDUCE parameters (R137). -/
structure ReduceParams where
  reference : Reference
  offset : Int
  span : Nat
  columns : Nat
  channels : Levels
  slots : BitVec 4
  repeatCode : Nat
  deriving DecidableEq, Repr

/-- An end reason (R145, R147). -/
inductive EndReason where
  | complete | overtaken | cancelled | superseded | discarded
  deriving DecidableEq, Repr

/-- The phase of the current reduction (R136). WAITING carries the elapsed time at which the repeat timer expires. -/
inductive ReducePhase where
  | starting
  | passing
  | closing
  | waiting (expiry : Nat)
  deriving DecidableEq, Repr

/-- The predecessor levels of a snapshot; the last covered tick is kept in timing mode (R140). -/
structure Predecessor where
  value : Levels
  lastTick : Option Nat
  deriving DecidableEq, Repr

/-- The snapshot of a pass (R140). -/
structure Snapshot where
  window : Int
  horizon : Nat
  floor : Option Nat
  predecessor : Option Predecessor
  live : Bool
  deriving DecidableEq, Repr

/-- The current reduction (R136). -/
structure Reduction where
  owner : Station
  params : ReduceParams
  phase : ReducePhase
  pass : Nat
  snapshot : Snapshot
  deriving DecidableEq, Repr

/-- An outgoing COLUMNS post (R145, R147). `last` is the end reason of a post that carries LAST. -/
structure ColumnsPost where
  dest : Station
  /-- The post belongs to the reduction that is current. -/
  ofCurrent : Bool
  pass : Nat
  window : Int
  first : Nat
  count : Nat
  cells : List Byte
  last : Option EndReason
  deriving DecidableEq, Repr

/-- The Column Engine (R136 to R153). -/
structure ColumnEngine where
  current : Option Reduction
  nextColumn : Nat
  outgoing : List ColumnsPost
  deriving DecidableEq, Repr

/-! ## Link Controller -/

/-- The link state (R155, R161). -/
inductive LinkState where
  | joining | running | linkFault
  deriving DecidableEq, Repr

/-- The six sources of posts (R158). -/
inductive Source where
  | signal | notice | answer | columns | stream | records
  deriving DecidableEq, Repr

/-- The post in flight: its source, all of its bytes, and the elapsed time of its start (R158, R185). -/
structure Flight where
  source : Source
  bytes : List Byte
  started : Nat
  deriving DecidableEq, Repr

/-- A part of the pending-signal set (R163). -/
structure SignalPart where
  flags : FlagSet
  origin : Option Nat
  deriving DecidableEq, Repr

/-- The raise handed over at an instant of elapsed time, with the pending part as it stood before (R163, R186). -/
structure NewRaise where
  time : Nat
  before : SignalPart
  raised : SignalPart
  deriving DecidableEq, Repr

/-- The Link Controller (R154 to R169). -/
structure LinkController where
  strapReading : BitVec 4
  station : Station
  rate : BitVec 2
  state : LinkState
  collisions : Nat
  retryWait : Bool
  flight : Option Flight
  pendingPart : SignalPart
  flightPart : SignalPart
  /-- The latest raise: a post that starts at its instant does not carry it (R186, log 12). -/
  newRaise : Option NewRaise
  /-- The elapsed time at which the line became idle, while it is idle (log 12). -/
  idleSince : Option Nat
  /-- The sources that held a ready post when the present instant began, or when the line became idle at it (R157, log 12). -/
  offered : List Source
  deriving DecidableEq, Repr

/-! ## Order Unit -/

/-- An answer of the answer list (R172). -/
structure Answer where
  dest : Station
  code : Byte
  tag : Byte
  status : Status
  index : Nat
  result : List Byte
  /-- A READ_RECORDS waits for this answer (R34). -/
  startsRead : Bool
  deriving DecidableEq, Repr

/-- The nine notice kinds in rank order (R177, R178). -/
inductive NoticeKind where
  | present | fault | triggered | done | loadTimeout | decodeLoss | stateOverrun | epochSkipped | activity
  deriving DecidableEq, Repr

/-- The details of TRIGGERED (R177). -/
structure TriggeredDetails where
  tick : Nat
  sequence : Nat
  cause : Cause
  deriving DecidableEq, Repr

/-- The details of LOAD_TIMEOUT (R94). -/
structure LoadTimeoutDetails where
  owner : Station
  total : Nat
  received : Nat
  deriving DecidableEq, Repr

/-- The details of EPOCH_SKIPPED (R167). -/
structure EpochSkippedDetails where
  sender : Station
  t0 : Nat
  receipt : Nat
  deriving DecidableEq, Repr

/-- The wake result of an ACTIVITY notice (R55). -/
inductive WakeResult where
  | none | armed | armFailed
  deriving DecidableEq, Repr

/-- The details of ACTIVITY (R55). `cause` is 0, an arm check 1 to 6, or 7 for BUSY (R170). -/
structure ActivityDetails where
  ch : Channel
  rising : Bool
  tick : Nat
  result : WakeResult
  cause : Nat
  deriving DecidableEq, Repr

/-- The pending notice set (R177). A kind with noted details is present when its details are. -/
structure NoticeSet where
  present : Bool
  fault : Bool
  triggered : Option TriggeredDetails
  done : Option Reason
  loadTimeout : Option LoadTimeoutDetails
  decodeLoss : Bool
  stateOverrun : Bool
  epochSkipped : Option EpochSkippedDetails
  activity : Option ActivityDetails
  /-- The kind carried by the NOTICE post in flight. -/
  flying : Option NoticeKind
  /-- That kind was set again after its post was composed. -/
  setAgain : Bool
  deriving DecidableEq, Repr

/-- The fields of a HELD fault record (R180). -/
structure FaultRecord where
  tick : Nat
  postClass : Nat
  capture : CapState
  further : Nat
  read : Bool
  deriving DecidableEq, Repr

/-- The Order Unit (R171 to R184). -/
structure OrderUnit where
  /-- Oldest first. -/
  answers : List Answer
  notices : NoticeSet
  reportStation : Option Station
  fault : Option FaultRecord
  /-- The elapsed time at which the running load gap timer expires. -/
  loadTimer : Option Nat
  deriving DecidableEq, Repr

/-! ## The node -/

/-- The Timebase (R166), with the elapsed time that the timers "not reckoned from the tick counter" use (log 11). -/
structure Timebase where
  tick : Nat
  elapsed : Nat
  deriving DecidableEq, Repr

/-- The whole node, and the queue of commands that wait for it. -/
structure State where
  time : Timebase
  pfe : Pfe
  sampler : Sampler
  store : Store
  readout : Readout
  capture : CaptureControl
  counters : CounterBank
  seq : Sequencer
  decoders : DecoderBank
  streamer : Streamer
  columns : ColumnEngine
  link : LinkController
  orders : OrderUnit
  /-- The reset pin is held low (R183). -/
  resetHeld : Bool
  /-- How many free values were drawn (log 32): the model's own counter. -/
  freeDraws : Nat
  /-- Commands waiting, first in, first out. -/
  pending : List Instr
  deriving DecidableEq, Repr

/-- The reasons for which a step can end in a fault: none.
The spec names no event that stops the node; LINK_FAULT is a link state (R161), and a refused order is answered (R174). -/
inductive Fault where
  deriving DecidableEq, Repr

/-- The reasons for which a step can be refused. -/
inductive Refusal where
  /-- A command without a meaning, raised by its arm of exec alone. Safe: nothing is claimed of it. No arm raises it. -/
  | notModelled (mnemonic : String)
  deriving DecidableEq, Repr

/-! ## Reset values -/

/-- Reset value of the Probe Front End (01, head table). The inputs are DESIGN CHOICE (log 5). -/
def Pfe.reset : Pfe where
  inputs := Vector.replicate 16 0
  enabled := 0xFFFF
  inverted := 0
  thresholds := Quad.fill 66
  activity := 0
  wakeSet := []

/-- Reset value of the sampling settings (R5). -/
def SamplerSettings.reset : SamplerSettings where
  mode := .timing
  divisor := 1
  clockChannel := 15
  clockEdge := .rising
  qualifier := none
  qualifyingLevel := true
  clockType := .edge
  tdFactor := 0
  tdMultiplier := 1

/-- Reset value of the Sampler (01, head table; items the table lacks: log 36). -/
def Sampler.reset : Sampler where
  settings := .reset
  record := ⟨.timing, 1⟩
  openRun := none
  missed := 0
  missSinceTaken := false
  lastTaken := none
  hold := none
  delayLine := []
  clockEdges := []
  nextIndex := 0
  prevValue := none
  lastSampleTick := none
  levelsRead := none
  movedOnce := 0
  movedTwice := 0

/-- Reset value of the Capture Store (02, head table). -/
def Store.reset : Store where
  records := []
  nextSeq := 0
  floor := 32768
  trigger := none
  placement := []
  lastRef := none

/-- Reset value of Capture Control (03, head table). -/
def CaptureControl.reset : CaptureControl where
  state := .idle
  reason := .none
  postDepth := 65536
  countdown := 0
  armLimit := 0
  armTimer := none
  forcePending := false
  returnState := none
  wakeArm := false

/-- Reset value of one counter (04, head table; R75). -/
def Counter.reset : Counter where
  settings := ⟨.off, .sample, 0, .rising, 0, .rising, 65536, false, .expiry⟩
  value := 0
  latch := 0
  expired := false
  overflow := false
  latchMark := false
  gateOpen := false
  raised := false
  gateDue := false
  countedTo := 0

/-- Reset value of the Counter Bank (R75). -/
def CounterBank.reset : CounterBank := ⟨Quad.fill .reset, false, false⟩

/-- The default program (R82). -/
def defaultProgram : List Stage :=
  [{ primary := ⟨.always, none, .a, false, 1, 0, true, 0, 0, false⟩, alternate := none }]

/-- Reset value of the Trigger Sequencer (05, head table). -/
def Sequencer.reset : Sequencer where
  program := defaultProgram
  isDefault := true
  stage := 0
  primaryCount := 0
  alternateCount := 0
  primaryPrev := none
  alternatePrev := none
  holds := [⟨⟨0, 0⟩, ⟨0, 0⟩⟩]
  heard := 0
  load := none

/-- Reset value of one slot (06, head table). -/
def Slot.reset : Slot := ⟨.off, false, false, .stopped, false, none⟩

/-- Reset value of the Decoder Bank (R100, R144). -/
def DecoderBank.reset : DecoderBank := ⟨Quad.fill .reset, 0⟩

/-- Reset value of the Streamer (07, head table). -/
def Streamer.reset : Streamer where
  on := false
  dest := none
  batch := false
  threshold := 8
  timeout := 10
  queue := []
  losses := Quad.fill 0
  inFlight := 0
  discardMarked := false
  ageReached := false
  lostNow := []

/-- Reset value of the Column Engine (08, head table). -/
def ColumnEngine.reset : ColumnEngine := ⟨none, 0, []⟩

/-- Reset value of the Link Controller but for the straps (09, head table). -/
def LinkController.resetWith (straps : BitVec 4) (station : Station) (rate : BitVec 2) : LinkController where
  strapReading := straps
  station := station
  rate := rate
  state := .joining
  collisions := 0
  retryWait := false
  flight := none
  pendingPart := ⟨0, none⟩
  flightPart := ⟨0, none⟩
  newRaise := none
  idleSince := none
  offered := []

/-- The notice set after a reset: PRESENT alone (R183). -/
def NoticeSet.reset : NoticeSet where
  present := true
  fault := false
  triggered := none
  done := none
  loadTimeout := none
  decodeLoss := false
  stateOverrun := false
  epochSkipped := none
  activity := none
  flying := none
  setAgain := false

/-- Reset value of the Order Unit (10, head table). -/
def OrderUnit.reset : OrderUnit := ⟨[], .reset, none, none, none⟩

/-- The node right after the release of the reset pin (R183). Straps: log 6. Probe inputs: log 5. -/
def State.reset : State where
  time := ⟨0, 0⟩
  pfe := .reset
  sampler := .reset
  store := .reset
  readout := .free
  capture := .reset
  counters := .reset
  seq := .reset
  decoders := .reset
  streamer := .reset
  columns := .reset
  link := .resetWith 0 0 0
  orders := .reset
  resetHeld := false
  freeDraws := 0
  pending := []

end Sys2Proof.Machine
end

