-- ==== Sys2Proof/Machine/Ops.lean ====
section
/-! DEFINITION. The named operations every block uses: one update per block of State, the levels of the front end, the timebase, the reset of the node. -/

namespace Sys2Proof.Machine

/-! ## Updates -/

/-- The state with another Timebase. -/
def State.withTime (s : State) (x : Timebase) : State := { s with time := x }
/-- The state with another Probe Front End. -/
def State.withPfe (s : State) (x : Pfe) : State := { s with pfe := x }
/-- The state with another Sampler. -/
def State.withSampler (s : State) (x : Sampler) : State := { s with sampler := x }
/-- The state with another Capture Store. -/
def State.withStore (s : State) (x : Store) : State := { s with store := x }
/-- The state with another readout job. -/
def State.withReadout (s : State) (x : Readout) : State := { s with readout := x }
/-- The state with another Capture Control. -/
def State.withCapture (s : State) (x : CaptureControl) : State := { s with capture := x }
/-- The state with another Counter Bank. -/
def State.withCounters (s : State) (x : CounterBank) : State := { s with counters := x }
/-- The state with another Trigger Sequencer. -/
def State.withSeq (s : State) (x : Sequencer) : State := { s with seq := x }
/-- The state with another Decoder Bank. -/
def State.withDecoders (s : State) (x : DecoderBank) : State := { s with decoders := x }
/-- The state with another Streamer. -/
def State.withStreamer (s : State) (x : Streamer) : State := { s with streamer := x }
/-- The state with another Column Engine. -/
def State.withColumns (s : State) (x : ColumnEngine) : State := { s with columns := x }
/-- The state with another Link Controller. -/
def State.withLink (s : State) (x : LinkController) : State := { s with link := x }
/-- The state with another Order Unit. -/
def State.withOrders (s : State) (x : OrderUnit) : State := { s with orders := x }
/-- The state with the reset pin held or released. -/
def State.withResetHeld (s : State) (x : Bool) : State := { s with resetHeld := x }
/-- The state after another count of free values was drawn (log 32). -/
def State.withFreeDraws (s : State) (x : Nat) : State := { s with freeDraws := x }
/-- The state with another queue. -/
def State.withPending (s : State) (x : List Instr) : State := { s with pending := x }

/-! ## Timebase and capture state -/

/-- The tick counter. -/
def State.tick (s : State) : Nat := s.time.tick

/-- A capture runs: the state is ARMED or TRIGGERED (R40). -/
def CapState.capturing (c : CapState) : Bool := c == .armed || c == .triggered

/-- A capture runs. -/
def State.capturing (s : State) : Bool := s.capture.state.capturing

/-- The tick counter after one more tick: it stops at 2^48-1 (R166). -/
def nextTick (t : Nat) : Nat := if t < Config.tickMax then t + 1 else t

/-! ## Levels -/

/-- The threshold group of a channel: four channels each (R1). -/
def groupOf (ch : Channel) : Fin 4 := ⟨ch.val / 4, by omega⟩

/-- The detected level: HIGH while the input is above the group's threshold (R1). One step is 25 mV (R3). -/
def Pfe.detected (p : Pfe) (ch : Channel) : Bool :=
  decide ((p.thresholds.get (groupOf ch)) * 25 < p.inputs[ch.val])

/-- The set of channels for which `f` answers true. -/
def levelsFrom (f : Channel → Bool) : Levels :=
  allChannels.foldl (fun v ch => if f ch then v ||| oneChannel ch else v) 0

/-- The raw levels of all channels (R1). -/
def Pfe.rawLevels (p : Pfe) : Levels := levelsFrom p.detected

/-- The normalised levels: exclusive-or of the invert flags, LOW for a disabled channel (R2). -/
def Pfe.levels (p : Pfe) : Levels := (p.rawLevels ^^^ p.inverted) &&& p.enabled

/-- The normalised level of one channel. -/
def Pfe.level (p : Pfe) (ch : Channel) : Bool := hasChannel p.levels ch

/-- The reading of this tick's levels, once there was one (R1, log 4). -/
def State.readingNow (s : State) : Option LevelsRead := s.sampler.levelsRead.filter (fun r => r.tick == s.tick)

/-- The tick a transition taken now in a capture is stamped with: the present tick, or the next one once this tick's levels have
been read, since "a level read at tick t is the level after every transition stamped t" (R1, log 4). -/
def State.transitionStamp (s : State) : Nat := if s.readingNow.isSome then nextTick s.tick else s.tick

/-- The normalised levels at the instant of the present tick, "after every transition stamped t" (R1): those of this tick's
reading, since later transitions bear the next stamp, or else the levels as they stand. At the last tick every transition
still bears its stamp (log 4). -/
def State.levelsNow (s : State) : Levels :=
  match s.readingNow with
  | some r => if s.tick < Config.tickMax then r.levels else s.pfe.levels
  | none => s.pfe.levels

/-- An edge setting takes the direction (R10, R18, R61). -/
def Edge.takes (e : Edge) (rising : Bool) : Bool :=
  match e with
  | .rising => rising
  | .falling => !rising
  | .either => true

/-! ## Samples -/

/-- A sample of the stream (R7). The edge set is the channels that rose and those that fell. -/
structure Sample where
  tick : Nat
  value : Levels
  mask : Levels
  index : Nat
  rises : Levels
  falls : Levels
  deriving DecidableEq, Repr

/-- The edge set holds the channel in a direction of the setting (R61, R78). -/
def Sample.shows (x : Sample) (ch : Channel) (e : Edge) : Bool :=
  match e with
  | .rising => hasChannel x.rises ch
  | .falling => hasChannel x.falls ch
  | .either => hasChannel x.rises ch || hasChannel x.falls ch

/-- The edge set holds the channel moving to the level (R113). -/
def Sample.movesTo (x : Sample) (ch : Channel) (level : Bool) : Bool :=
  x.shows ch (if level then .rising else .falling)

/-- The level of a channel in the sample. -/
def Sample.level (x : Sample) (ch : Channel) : Bool := hasChannel x.value ch

/-- The glitch mask of a sample taken now (R9): timing mode, D at least 2, an earlier sample, two or more transitions, the
same level in both samples. Only transitions of enabled channels are counted. -/
def Sampler.glitchMask (p : Sampler) (value : Levels) : Levels :=
  match p.prevValue with
  | none => 0
  | some prev =>
    if p.settings.mode = .timing ∧ 2 ≤ p.settings.divisor then p.movedTwice &&& ~~~(value ^^^ prev) else 0

/-- The sample that the Sampler reads now (R7). The first one of a capture has an empty edge set. -/
def State.readSample (s : State) : Sample :=
  let value := s.levelsNow
  let prev := s.sampler.prevValue.getD value
  { tick := s.tick
    value := value
    mask := s.sampler.glitchMask value
    index := s.sampler.nextIndex
    rises := value &&& ~~~prev
    falls := prev &&& ~~~value }

/-! ## Resets -/

/-- Every item at its reset value but for those the RESET order keeps: straps, tick counter, fault record (R182).
The probe inputs are the world's, and the queue, the elapsed time and the free-value counter the model's own. -/
def State.resetNode (s : State) : State :=
  { State.reset with
    time := s.time
    pfe := { Pfe.reset with inputs := s.pfe.inputs }
    link := .resetWith s.link.strapReading s.link.station s.link.rate
    orders := { OrderUnit.reset with fault := s.orders.fault }
    resetHeld := s.resetHeld
    freeDraws := s.freeDraws
    pending := s.pending }

end Sys2Proof.Machine
end

