-- ==== Sys2Proof/Machine/Flags.lean ====
section
/-! DEFINITION. The indications the blocks raise: the pending notice set (R177, R178), the pending-signal set (R163, R164), the fault record (R180). -/

namespace Sys2Proof.Machine

/-! ## The pending notice set -/

/-- A setting of a kind whose post is in flight keeps the kind in the set when that post is sent in full (R177). -/
def NoticeSet.noteSetting (n : NoticeSet) (k : NoticeKind) : NoticeSet :=
  if n.flying = some k then { n with setAgain := true } else n

/-- FAULT is set pending; it keeps one entry. -/
def NoticeSet.setFault (n : NoticeSet) : NoticeSet := { n.noteSetting .fault with fault := true }
/-- TRIGGERED is set pending; a second setting replaces the details. -/
def NoticeSet.setTriggered (n : NoticeSet) (d : TriggeredDetails) : NoticeSet :=
  { n.noteSetting .triggered with triggered := some d }
/-- DONE is set pending; a second setting replaces the reason. -/
def NoticeSet.setDone (n : NoticeSet) (r : Reason) : NoticeSet := { n.noteSetting .done with done := some r }
/-- LOAD_TIMEOUT is set pending; a second setting replaces details and destination. -/
def NoticeSet.setLoadTimeout (n : NoticeSet) (d : LoadTimeoutDetails) : NoticeSet :=
  { n.noteSetting .loadTimeout with loadTimeout := some d }
/-- DECODE_LOSS is set pending; it keeps one entry. -/
def NoticeSet.setDecodeLoss (n : NoticeSet) : NoticeSet := { n.noteSetting .decodeLoss with decodeLoss := true }
/-- STATE_OVERRUN is set pending; it keeps one entry. -/
def NoticeSet.setStateOverrun (n : NoticeSet) : NoticeSet :=
  { n.noteSetting .stateOverrun with stateOverrun := true }
/-- EPOCH_SKIPPED is set pending; a second setting replaces the details. -/
def NoticeSet.setEpochSkipped (n : NoticeSet) (d : EpochSkippedDetails) : NoticeSet :=
  { n.noteSetting .epochSkipped with epochSkipped := some d }
/-- ACTIVITY is set pending; a second setting replaces the details. -/
def NoticeSet.setActivity (n : NoticeSet) (d : ActivityDetails) : NoticeSet :=
  { n.noteSetting .activity with activity := some d }

/-- The kind is pending. -/
def NoticeSet.holds (n : NoticeSet) : NoticeKind → Bool
  | .present => n.present
  | .fault => n.fault
  | .triggered => n.triggered.isSome
  | .done => n.done.isSome
  | .loadTimeout => n.loadTimeout.isSome
  | .decodeLoss => n.decodeLoss
  | .stateOverrun => n.stateOverrun
  | .epochSkipped => n.epochSkipped.isSome
  | .activity => n.activity.isSome

/-- The kind leaves the set. -/
def NoticeSet.remove (n : NoticeSet) : NoticeKind → NoticeSet
  | .present => { n with present := false }
  | .fault => { n with fault := false }
  | .triggered => { n with triggered := none }
  | .done => { n with done := none }
  | .loadTimeout => { n with loadTimeout := none }
  | .decodeLoss => { n with decodeLoss := false }
  | .stateOverrun => { n with stateOverrun := false }
  | .epochSkipped => { n with epochSkipped := none }
  | .activity => { n with activity := none }

/-- The kinds in rank order (R178). -/
def noticeRanks : List NoticeKind :=
  [.present, .fault, .triggered, .done, .loadTimeout, .decodeLoss, .stateOverrun, .epochSkipped, .activity]

/-- The code of a kind (R170). -/
def NoticeKind.code : NoticeKind → Nat
  | .present => 0
  | .fault => 1
  | .triggered => 2
  | .done => 3
  | .loadTimeout => 4
  | .decodeLoss => 5
  | .stateOverrun => 6
  | .epochSkipped => 7
  | .activity => 8

/-- Where a pending kind goes (R177): `none` when it has no destination yet, `some none` for all stations. -/
def OrderUnit.noticeDest (u : OrderUnit) : NoticeKind → Option (Option Station)
  | .present => some none
  | .loadTimeout => u.notices.loadTimeout.map (fun d => some d.owner)
  | .fault | .triggered | .done | .decodeLoss | .stateOverrun | .epochSkipped | .activity =>
    u.reportStation.map some

/-- The highest-ranked pending kind with a destination (R178). -/
def OrderUnit.readyNotice (u : OrderUnit) : Option NoticeKind :=
  noticeRanks.find? (fun k => u.notices.holds k && (u.noticeDest k).isSome)

/-- The kinds pending as QUERY shows them: bit n for the kind with code n (R176). -/
def NoticeSet.bits (n : NoticeSet) : Nat :=
  noticeRanks.foldl (fun v k => if n.holds k then v + 2 ^ k.code else v) 0

/-- The post of a kind is composed and in flight. -/
def NoticeSet.fly (n : NoticeSet) (k : NoticeKind) : NoticeSet := { n with flying := some k, setAgain := false }

/-- The NOTICE post was sent in full: its kind leaves the set unless it was set again meanwhile (R177). -/
def NoticeSet.sent (n : NoticeSet) : NoticeSet :=
  match n.flying with
  | none => n
  | some k => { (if n.setAgain then n else n.remove k) with flying := none, setAgain := false }

/-- The NOTICE post came back: its kind is still pending (R178). -/
def NoticeSet.returned (n : NoticeSet) : NoticeSet := { n with flying := none, setAgain := false }

/-- The state with a change of its notice set. -/
def State.withNotices (s : State) (f : NoticeSet → NoticeSet) : State :=
  s.withOrders { s.orders with notices := f s.orders.notices }

/-! ## The pending-signal set -/

/-- No flags, and so no origin tick (R163). -/
def SignalPart.empty : SignalPart := ⟨0, none⟩

/-- Flags join a part; the origin tick becomes the raise's only when the part was empty (R163). -/
def SignalPart.join (p : SignalPart) (flags : FlagSet) (tick : Nat) : SignalPart :=
  ⟨p.flags ||| flags, if p.flags = 0 then some tick else p.origin⟩

/-- The raise handed over at an elapsed time, if there was one. -/
def LinkController.raiseAt (l : LinkController) (now : Nat) : Option NewRaise := l.newRaise.filter (fun r => r.time == now)

/-- A raise at an elapsed time: its flags join the pending part (R163). -/
def LinkController.raiseFlags (l : LinkController) (flags : FlagSet) (tick now : Nat) : LinkController :=
  if flags = 0 then l
  else
    { l with
      pendingPart := l.pendingPart.join flags tick
      newRaise :=
        match l.raiseAt now with
        | none => some ⟨now, l.pendingPart, SignalPart.empty.join flags tick⟩
        | some r => some { r with raised := r.raised.join flags tick } }

/-- The part that a SIGNAL post starting at an elapsed time carries: the pending part, without what was raised at that very
instant, since a post starts no earlier than the bit time after the raise (R164, R186). -/
def LinkController.carriedPart (l : LinkController) (now : Nat) : SignalPart :=
  match l.raiseAt now with
  | none => l.pendingPart
  | some r => r.before

/-- The part that stays pending when a SIGNAL post starts: nothing but a raise of that very instant (R164, R186). -/
def LinkController.leftPart (l : LinkController) (now : Nat) : SignalPart :=
  match l.raiseAt now with
  | none => SignalPart.empty
  | some r => r.raised

/-- The earlier of two origin ticks, or the one there is (R164). -/
def earlierOrigin : Option Nat → Option Nat → Option Nat
  | some a, some b => some (min a b)
  | some a, none => some a
  | none, b => b

/-- A part that another rejoins, with the earlier tick (R164). -/
def SignalPart.rejoin (p q : SignalPart) : SignalPart := ⟨p.flags ||| q.flags, earlierOrigin p.origin q.origin⟩

/-- A SIGNAL post starts: the part it carries moves to the in-flight part (R164). -/
def LinkController.composeSignal (l : LinkController) (now : Nat) : LinkController :=
  { l with flightPart := l.carriedPart now, pendingPart := l.leftPart now, newRaise := none }

/-- A SIGNAL post was sent in full: the in-flight part is emptied (R164). -/
def LinkController.signalSent (l : LinkController) : LinkController := { l with flightPart := SignalPart.empty }

/-- A SIGNAL post was withdrawn or abandoned: its flags rejoin the pending part with the earlier tick (R164). -/
def LinkController.signalReturned (l : LinkController) : LinkController :=
  { l with
    pendingPart := l.pendingPart.rejoin l.flightPart
    flightPart := SignalPart.empty
    newRaise := l.newRaise.map (fun r => { r with before := r.before.rejoin l.flightPart }) }

/-! ## The fault record -/

/-- A fault report reaches the record (R180): EMPTY or read, it is written afresh; unread, the further-faults count rises. -/
def faultReport (r : Option FaultRecord) (tick postClass : Nat) (capture : CapState) : FaultRecord :=
  match r with
  | none => ⟨tick, postClass, capture, 0, false⟩
  | some f => if f.read then ⟨tick, postClass, capture, 0, false⟩ else { f with further := min 255 (f.further + 1) }

/-- The class of a source's posts (R158). -/
def Source.cls : Source → Nat
  | .signal => 1
  | .notice => 2
  | .answer => 4
  | .columns => 5
  | .stream => 6
  | .records => 7

end Sys2Proof.Machine
end

