-- ==== Sys2Proof/Machine/CounterOps.lean ====
section
/-! DEFINITION. The Counter Bank's operations: occurrences, expiries, gates, captures, restarts (R59 to R76). -/

namespace Sys2Proof.Machine

/-- The TICK divider of a source (R61). -/
def CounterSource.divider : CounterSource → Option Nat
  | .tick1 => some 1
  | .tick16 => some 16
  | .tick256 => some 256
  | .tick4096 => some 4096
  | .sample | .edge => none

/-- The partner of a counter: K0 and K1, K2 and K3. -/
def partnerOf (k : Fin 4) : Fin 4 :=
  match k.val with
  | 0 => 1
  | 1 => 0
  | 2 => 3
  | _ => 2

/-- The counter is the low half of its pair: K0 or K2. -/
def isLow (k : Fin 4) : Bool := k.val % 2 == 0

/-- The cascade setting of the counter's pair. -/
def CounterBank.cascadeOf (b : CounterBank) (k : Fin 4) : Bool := if k.val < 2 then b.cascade01 else b.cascade23

/-- The high counter of the counter's pair. -/
def highOf (k : Fin 4) : Fin 4 := if k.val < 2 then 1 else 3

/-- The low counter of the counter's pair. -/
def lowOf (k : Fin 4) : Fin 4 := if k.val < 2 then 0 else 2

/-- The counter's pair runs as one 32-bit counter (R60). -/
def CounterBank.cascaded (b : CounterBank) (k : Fin 4) : Bool :=
  b.cascadeOf k && (b.k.get (highOf k)).settings.mode == .cascade

/-- An event of a kind: the sequencer sees it when the counter selects that kind (R70). -/
def Counter.event (c : Counter) (e : EventKind) : Counter :=
  { c with raised := c.raised || c.settings.select == e }

/-- The pair's reload Rc (R68). -/
def pairReload (low high : Counter) : Nat := (high.settings.reload - 1) * 65536 + low.settings.reload

/-- The value of a counter as it counts: of its pair when cascaded (R68). -/
def CounterBank.countValue (b : CounterBank) (k : Fin 4) : Nat :=
  if b.cascaded k then (b.k.get (highOf k)).value * 65536 + (b.k.get (lowOf k)).value else (b.k.get k).value

/-- The latch of a counter as the sequencer reads it: 32 bits for a cascaded pair (R71). -/
def CounterBank.countLatch (b : CounterBank) (k : Fin 4) : Nat :=
  if b.cascaded k then (b.k.get (highOf k)).latch * 65536 + (b.k.get (lowOf k)).latch else (b.k.get k).latch

/-- The reload a counter counts to: Rc for a cascaded pair. -/
def CounterBank.countReload (b : CounterBank) (k : Fin 4) : Nat :=
  if b.cascaded k then pairReload (b.k.get (lowOf k)) (b.k.get (highOf k)) else (b.k.get k).settings.reload

/-- The value at which a PERIOD or GATED counter stops: 65,535, or Rc-1 for a cascaded pair (R65, R69). -/
def CounterBank.saturation (b : CounterBank) (k : Fin 4) : Nat := if b.cascaded k then b.countReload k - 1 else 65535

/-- One counter changed. -/
def CounterBank.update (b : CounterBank) (k : Fin 4) (f : Counter → Counter) : CounterBank :=
  { b with k := b.k.set k (f (b.k.get k)) }

/-- A counter's value set, on both halves of a cascaded pair (R68). -/
def CounterBank.setValue (b : CounterBank) (k : Fin 4) (v : Nat) : CounterBank :=
  if b.cascaded k then
    (b.update (highOf k) (fun c => { c with value := v / 65536 })).update (lowOf k)
      (fun c => { c with value := v % 65536 })
  else b.update k (fun c => { c with value := v })

/-- An expiry is the gate signal of a partner in GATED mode, whatever the event select (R63, R66). The gate acts once the
occurrences of the tick are counted (log 9). -/
def CounterBank.signalGate (b : CounterBank) (k : Fin 4) : CounterBank :=
  if (b.k.get (partnerOf k)).settings.mode = .gated then
    b.update (partnerOf k) (fun c => { c with gateDue := true })
  else b

/-- One occurrence of a COUNT counter's source (R63, R68). -/
def CounterBank.countOccurrence (b : CounterBank) (k : Fin 4) : CounterBank :=
  let c := b.k.get k
  let v := b.countValue k
  if c.settings.oneshot && c.expired then b
  else if v + 1 < b.countReload k then b.setValue k (v + 1)
  else
    let b := if c.settings.oneshot then b else b.setValue k 0
    (b.update k (fun c => ({ c with expired := true } : Counter).event .expiry)).signalGate k

/-- One occurrence of a PERIOD or GATED counter's source (R64, R65, R69). A PERIOD pair with Rc = 1 stands at its limit 0 already
and never overflows (log 42). -/
def CounterBank.saturatingOccurrence (b : CounterBank) (k : Fin 4) : CounterBank :=
  let v := b.countValue k
  if v + 1 < b.saturation k then b.setValue k (v + 1)
  else if v + 1 = b.saturation k then
    (b.setValue k (v + 1)).update k (fun c => ({ c with overflow := true } : Counter).event .overflow)
  else b

/-- One occurrence of a counter's source, by its mode (R61 to R69).
A high counter of a cascaded pair, and one in CASCADE, count nothing (R60). -/
def CounterBank.occurrence (b : CounterBank) (k : Fin 4) : CounterBank :=
  match (b.k.get k).settings.mode with
  | .off | .cascade => b
  | .count => b.countOccurrence k
  | .period => b.saturatingOccurrence k
  | .gated => if (b.k.get k).gateOpen then b.saturatingOccurrence k else b

/-- A capture: the value and the overflow indication go to the latch, the value to 0, and CAPTURE is raised
(R64, R65, R66, R69). -/
def CounterBank.capture (b : CounterBank) (k : Fin 4) : CounterBank :=
  let b :=
    if b.cascaded k then
      b.update (highOf k) (fun c => { c with latch := c.value, value := 0 })
    else b
  b.update k (fun c =>
    ({ c with latch := c.value, latchMark := c.overflow, value := 0, overflow := false } : Counter).event .capture)

/-- A partner expiry acts on the gate (R66): the first opens it, each later one closes a window and opens the next. -/
def CounterBank.actGate (b : CounterBank) (k : Fin 4) : CounterBank :=
  let c := b.k.get k
  if c.gateDue then
    let b := b.update k (fun c => { c with gateDue := false, gateOpen := true })
    if c.gateOpen then b.capture k else b
  else b

/-- All four counters in order. -/
def allCounters : List (Fin 4) := [0, 1, 2, 3]

/-- The partner expiries of the present tick act on every gate. -/
def CounterBank.actGates (b : CounterBank) : CounterBank := allCounters.foldl CounterBank.actGate b

/-- A TICK occurrence of the counter falls on the tick and is not counted yet (R61). -/
def Counter.tickDue (c : Counter) (tick : Nat) : Bool :=
  match c.settings.source.divider with
  | none => false
  | some x => decide (c.countedTo < tick ∧ tick % x = 0)

/-- The TICK occurrence of one counter at the tick is counted, if there is one (R61). -/
def CounterBank.countTick (b : CounterBank) (tick : Nat) (k : Fin 4) : CounterBank :=
  if (b.k.get k).tickDue tick then (b.update k (fun c => { c with countedTo := tick })).occurrence k else b

/-- The sample holds an occurrence of the counter's source (R61). -/
def Counter.sampleOccurs (c : Counter) (x : Sample) : Bool :=
  match c.settings.source with
  | .sample => true
  | .edge => x.shows c.settings.sourceChannel c.settings.sourceEdge
  | .tick1 | .tick16 | .tick256 | .tick4096 => false

/-- One counter counts the occurrences of a sample: its TICK occurrence at the sample's tick, then the sample's own (R61). -/
def CounterBank.countSample (x : Sample) (b : CounterBank) (k : Fin 4) : CounterBank :=
  let b := b.countTick x.tick k
  if (b.k.get k).sampleOccurs x then b.occurrence k else b

/-- A period edge of a PERIOD counter captures after the sample's occurrences are counted (R64). -/
def CounterBank.capturePeriod (x : Sample) (b : CounterBank) (k : Fin 4) : CounterBank :=
  let c := (b.k.get k).settings
  if c.mode = .period ∧ x.shows c.periodChannel c.periodEdge then b.capture k else b

/-- The bank handles a sample (R61, R64, R66, R71): occurrences, then gates, then period captures. -/
def CounterBank.handleSample (b : CounterBank) (x : Sample) : CounterBank :=
  allCounters.foldl (CounterBank.capturePeriod x) (allCounters.foldl (CounterBank.countSample x) b).actGates

/-- What the sequencer is handed for one counter at a sample (R71): whether its selected event was raised, its latch and the
latch overflow mark. -/
structure CounterEvent where
  seen : Bool
  latch : Nat
  latchMark : Bool
  deriving DecidableEq, Repr

/-- The latch overflow mark of a counter: that of its pair's low counter when cascaded (R68, R71). -/
def CounterBank.countMark (b : CounterBank) (k : Fin 4) : Bool :=
  (b.k.get (if b.cascaded k then lowOf k else k)).latchMark

/-- The events handed for a sample (R71). The high counter of a cascaded pair gives none (R60). A SAMPLE or EDGE event of a
first sample at the ARM's own tick is handed with that sample (log 41). -/
def CounterBank.events (b : CounterBank) : Quad CounterEvent :=
  b.k.mapIdx (fun k c => ⟨c.raised && !(b.cascaded k && !isLow k), b.countLatch k, b.countMark k⟩)

/-- After a sample is handed on, its events belong to no later sample (R71). -/
def CounterBank.clearEvents (b : CounterBank) : CounterBank :=
  { b with k := b.k.map (fun c => { c with raised := false }) }

/-- One counter restarted at a tick (R43, R74): TICK occurrences after that tick count again. -/
def Counter.restart (tick : Nat) (c : Counter) : Counter :=
  { c with
    value := 0, latch := 0, expired := false, overflow := false, latchMark := false,
    gateOpen := false, raised := false, gateDue := false, countedTo := tick }

/-- Every counter restarted (R43, R73). -/
def CounterBank.restartAll (b : CounterBank) (tick : Nat) : CounterBank :=
  { b with k := b.k.map (Counter.restart tick) }

/-- A RESTART action (R74): the named counters, and both halves of a cascaded pair that it names. -/
def CounterBank.restart (b : CounterBank) (set : BitVec 4) (tick : Nat) : CounterBank :=
  { b with
    k := b.k.mapIdx (fun k c =>
      if set.getLsbD k.val || (b.cascaded k && set.getLsbD (partnerOf k).val) then c.restart tick else c) }

/-- Counting stops at a capture end, after the partner expiries already counted have acted (R66, R73). -/
def CounterBank.stop (b : CounterBank) : CounterBank := b.actGates

/-- A counter whose TICK occurrence of the tick is still to be counted, with whether it counts to a reload (R61). -/
def CounterBank.dueTick (b : CounterBank) (tick : Nat) : Option (Fin 4) :=
  allCounters.find? (fun k =>
    (b.k.get k).tickDue tick &&
      (match (b.k.get k).settings.mode with
      | .count | .period | .gated => true
      | .off | .cascade => false))

end Sys2Proof.Machine
end

