-- ==== Sys2Proof/Machine/DecoderOps.lean ====
section
/-! DEFINITION. The three protocol decoders and the Decoder Bank's handling of a sample (R99 to R122). -/

namespace Sys2Proof.Machine

/-- A record's duration, which saturates at 2^32-1 (R99). -/
def durationOf (start stop : Nat) : Nat := min (stop - start) (2 ^ 32 - 1)

/-- The error set is empty. -/
def DecodeErrors.isEmpty (e : DecodeErrors) : Bool := !(e.parity || e.framing || e.short || e.runt || e.stall)

/-- The number whose first bit is the least significant. -/
def lsbFirstValue (bits : List Bool) : Nat := bits.foldr (fun b n => 2 * n + b.toNat) 0

/-- The number whose first bit is the most significant. -/
def msbFirstValue (bits : List Bool) : Nat := bits.foldl (fun n b => 2 * n + b.toNat) 0

/-- The value of bits in the order they came (R108, R111). -/
def wordValue (msbFirst : Bool) (bits : List Bool) : BitVec 16 :=
  BitVec.ofNat 16 (if msbFirst then msbFirstValue bits else lsbFirstValue bits)

/-- What a slot does at a sample: its new self and the record it completes, if any (R101). -/
abbrev SlotStep := Slot × Option DecodeRecord

/-! ## ASYNC -/

/-- Bit positions after the start bit that are read: data, parity, stop samples (R104, R108). -/
def AsyncSettings.lastPosition (c : AsyncSettings) : Nat :=
  c.bits + (if c.parity = .none then 0 else 1) + (if c.stop = .two then 2 else 1)

/-- The index of the sample at which bit position `i` is read (R106). -/
def AsyncSettings.samplePoint (c : AsyncSettings) (s0 i : Nat) : Nat := s0 + (2 * i + 1) * c.period / 32

/-- The parity bit is not the one expected (R108). -/
def AsyncSettings.parityWrong (c : AsyncSettings) (data : List Bool) (bit : Bool) : Bool :=
  let ones := data.countP id + bit.toNat
  match c.parity with
  | .none => false
  | .even => ones % 2 != 0
  | .odd => ones % 2 != 1
  | .mark => !bit
  | .space => bit

/-- The record of a whole frame from the bits read after the start bit, 1 for the idle level (R108, R109). -/
def AsyncSettings.frame (c : AsyncSettings) (slot : Fin 4) (s0Tick endTick : Nat) (read : List Bool) : DecodeRecord :=
  let data := read.take c.bits
  let rest := read.drop c.bits
  let stops := if c.parity = .none then rest else rest.drop 1
  if read.all (!·) then
    ⟨slot, .brk, 0, c.bits, none, s0Tick, durationOf s0Tick endTick, {}⟩
  else
    ⟨slot, .data, wordValue c.msbFirst data, c.bits, none, s0Tick, durationOf s0Tick endTick,
      { parity := c.parityWrong data (rest.headD false), framing := stops.any (!·) }⟩

/-- An ASYNC slot handles a sample (R105 to R109). -/
def AsyncSettings.step (c : AsyncSettings) (id : Fin 4) (d : Slot) (x : Sample) : SlotStep :=
  let isIdle := x.level c.data == c.idle
  match d.phase with
  | .hunting =>
    if isIdle then ({ d with idleSeen := true }, none)
    else if d.idleSeen then ({ d with phase := .inWord (.async x.index x.tick 0 []) }, none)
    else (d, none)
  | .inWord (.async s0 s0Tick i read) =>
    if x.index = c.samplePoint s0 i then
      if i = 0 then
        if isIdle then ({ d with phase := .hunting, idleSeen := true }, none)
        else ({ d with phase := .inWord (.async s0 s0Tick 1 []) }, none)
      else if i = c.lastPosition then
        let r := c.frame id s0Tick x.tick (read ++ [isIdle])
        ({ d with phase := .hunting, idleSeen := isIdle }, some r)
      else ({ d with phase := .inWord (.async s0 s0Tick (i + 1) (read ++ [isIdle])) }, none)
    else (d, none)
  | .stopped | .recovering | .inWord (.clocked _ _) | .inWord (.strobed _ _ _) => (d, none)

/-! ## CLOCKED -/

/-- Select is active in the sample (R111). -/
def ClockedSettings.selected (c : ClockedSettings) (x : Sample) : Bool :=
  match c.select with
  | none => true
  | some l => x.level l.ch == l.active

/-- The bits held by a CLOCKED slot and its word's start tick, if a word is in progress. -/
def Slot.clockedWord (d : Slot) : Option (Nat × List Bool) :=
  match d.phase with
  | .inWord (.clocked start held) => some (start, held)
  | .stopped | .hunting | .recovering | .inWord (.async _ _ _ _) | .inWord (.strobed _ _ _) => none

/-- A CLOCKED record from bits in the order they came (R111, R112). -/
def ClockedSettings.record (c : ClockedSettings) (id : Fin 4) (start stop : Nat) (bits : List Bool) (short : Bool) :
    DecodeRecord :=
  ⟨id, .data, wordValue c.msbFirst bits, bits.length, none, start, durationOf start stop, { short := short }⟩

/-- A CLOCKED slot handles a sample (R111, R112). -/
def ClockedSettings.step (c : ClockedSettings) (id : Fin 4) (d : Slot) (x : Sample) : SlotStep :=
  if d.phase = .stopped then (d, none)
  else if !c.selected x then
    match d.clockedWord with
    | some (start, held) => ({ d with phase := .hunting }, some (c.record id start x.tick held true))
    | none => (d, none)
  else if x.shows c.clock (if c.rising then .rising else .falling) then
    let word := d.clockedWord.getD (x.tick, [])
    let held := word.2 ++ [x.level c.data]
    if held.length = c.wordLength then
      ({ d with phase := .hunting }, some (c.record id word.1 x.tick held false))
    else ({ d with phase := .inWord (.clocked word.1 held) }, none)
  else (d, none)

/-! ## STROBED -/

/-- The word a STROBED slot latches in a sample: the data range with the base channel as bit 0, and the kind (R113). -/
def StrobedSettings.latch (c : StrobedSettings) (x : Sample) : BitVec 16 × RecKind :=
  (BitVec.ofNat 16 ((x.value.toNat / 2 ^ c.base.val) % 2 ^ c.width),
    match c.selector with
    | none => .data
    | some ch => if x.level ch then .data else .command)

/-- A STROBED word that completed, before run prefixing (R113). -/
def StrobedSettings.record (c : StrobedSettings) (id : Fin 4) (start stop : Nat) (word : BitVec 16 × RecKind)
    (errors : DecodeErrors) : DecodeRecord :=
  ⟨id, word.2, word.1, c.width, none, start, durationOf start stop, errors⟩

/-- Run prefixing of a word that completed (R118): an error-free COMMAND below 128 becomes the pending prefix and is no
record; a DATA record takes the pending prefix. -/
def StrobedSettings.deliver (c : StrobedSettings) (d : Slot) (r : DecodeRecord) : SlotStep :=
  if !c.runPrefixing then (d, some r)
  else if r.kind = .data then ({ d with pendingRun := none }, some { r with runCount := some (d.pendingRun.getD 1) })
  else if r.errors.isEmpty ∧ r.value.toNat < 128 then ({ d with pendingRun := some (r.value.toNat + 1) }, none)
  else (d, some r)

/-- The phase after a word completed by acknowledge or timeout: RECOVERING while the strobe is active (R117). -/
def StrobedSettings.restPhase (c : StrobedSettings) (x : Sample) : Phase :=
  if x.level c.strobe.ch = c.strobe.active then .recovering else .hunting

/-- A strobe active edge in HUNTING begins a strobe cycle (R114 to R117). -/
def StrobedSettings.begin (c : StrobedSettings) (id : Fin 4) (d : Slot) (x : Sample) : SlotStep :=
  match c.handshake with
  | .leading => c.deliver { d with phase := .recovering } (c.record id x.tick x.tick (c.latch x) {})
  | .trailing | .pulse => ({ d with phase := .inWord (.strobed x.tick x.index none) }, none)
  | .interlocked => ({ d with phase := .inWord (.strobed x.tick x.index (some (c.latch x))) }, none)

/-- An acknowledge edge in the sample (R113). -/
def StrobedSettings.ackEdge (c : StrobedSettings) (x : Sample) : Bool :=
  match c.ack with
  | none => false
  | some a => x.movesTo a.line.ch a.line.active

/-- The timeout T in samples (R113). -/
def StrobedSettings.timeout (c : StrobedSettings) : Nat :=
  match c.ack with
  | none => 0
  | some a => a.timeout

/-- An INTERLOCKED word waits at a sample after its latch sample (R117). The acknowledge is looked at first, then the
timeout, then a new strobe active edge. -/
def StrobedSettings.wait (c : StrobedSettings) (id : Fin 4) (d : Slot) (x : Sample) (start index : Nat)
    (word : BitVec 16 × RecKind) : SlotStep :=
  if c.ackEdge x && decide (x.index ≤ index + c.timeout) then
    c.deliver { d with phase := c.restPhase x } (c.record id start x.tick word {})
  else if index + c.timeout ≤ x.index then
    c.deliver { d with phase := c.restPhase x } (c.record id start x.tick word { stall := true })
  else if x.movesTo c.strobe.ch c.strobe.active then
    c.deliver { d with phase := .inWord (.strobed x.tick x.index (some (c.latch x))) }
      (c.record id start x.tick word { stall := true })
  else (d, none)

/-- A STROBED slot handles a sample (R114 to R118). -/
def StrobedSettings.step (c : StrobedSettings) (id : Fin 4) (d : Slot) (x : Sample) : SlotStep :=
  match d.phase with
  | .hunting =>
    if x.index = 0 ∧ x.level c.strobe.ch = c.strobe.active then ({ d with phase := .recovering }, none)
    else if x.movesTo c.strobe.ch c.strobe.active then c.begin id d x
    else (d, none)
  | .recovering =>
    if x.movesTo c.strobe.ch (!c.strobe.active) then ({ d with phase := .hunting }, none) else (d, none)
  | .inWord (.strobed start index none) =>
    if x.movesTo c.strobe.ch (!c.strobe.active) then
      c.deliver { d with phase := .hunting }
        (c.record id start x.tick (c.latch x)
          { runt := c.handshake == .pulse && decide (x.index - index < c.minWidth) })
    else (d, none)
  | .inWord (.strobed start index (some word)) => c.wait id d x start index word
  | .stopped | .inWord (.async _ _ _ _) | .inWord (.clocked _ _) => (d, none)

/-! ## The bank -/

/-- A slot handles a sample by its kind (R100). A slot of kind OFF completes nothing. -/
def Slot.step (id : Fin 4) (x : Sample) (d : Slot) : SlotStep :=
  match d.kind with
  | .off => (d, none)
  | .async c => c.step id d x
  | .clocked c => c.step id d x
  | .strobed c => c.step id d x

/-- What the four slots do at a sample. -/
def DecoderBank.steps (b : DecoderBank) (x : Sample) : Quad SlotStep := b.slots.mapIdx (fun id d => d.step id x)

/-- The bank after a sample. -/
def DecoderBank.handleSample (b : DecoderBank) (x : Sample) : DecoderBank :=
  { b with slots := (b.steps x).map Prod.fst }

/-- The records completed at a sample, in slot order (R101). -/
def DecoderBank.completed (b : DecoderBank) (x : Sample) : List DecodeRecord :=
  (b.steps x).toList.filterMap Prod.snd

/-- A slot at a taken ARM (R100, R119): HUNTING unless its kind is OFF, no word, no prefix, nothing seen. -/
def Slot.arm (d : Slot) : Slot :=
  { d with phase := if d.kind = .off then .stopped else .hunting, idleSeen := false, pendingRun := none }

/-- A slot at the capture end (R100, R119): STOPPED, word and prefix discarded, idle-seen kept. -/
def Slot.stop (d : Slot) : Slot := { d with phase := .stopped, pendingRun := none }

/-- The set of slots whose kind is not OFF and whose store copies are on (R144). -/
def DecoderBank.noteCopySet (b : DecoderBank) : BitVec 4 :=
  ([0, 1, 2, 3] : List (Fin 4)).foldl
    (fun v i => if (b.slots.get i).kind ≠ .off ∧ (b.slots.get i).storeCopies then v ||| (1#4 <<< i.val) else v) 0

/-- The bank at a taken ARM (R43, R144). -/
def DecoderBank.arm (b : DecoderBank) : DecoderBank := { slots := b.slots.map Slot.arm, copySet := b.noteCopySet }

/-- The bank at the capture end (R50). -/
def DecoderBank.stop (b : DecoderBank) : DecoderBank := { b with slots := b.slots.map Slot.stop }

end Sys2Proof.Machine
end

