-- ==== Sys2Proof/Machine/SequencerOps.lean ====
section
/-! DEFINITION. The Trigger Sequencer's evaluation of a sample (R77 to R91) and the reading of a program image (R95, R96, R170). -/

namespace Sys2Proof.Machine

/-! ## Evaluation -/

/-- The inputs of a sample that are settled before the sequencer evaluates it (R83). -/
structure SeqInputs where
  sample : Sample
  records : List DecodeRecord
  events : Quad CounterEvent
  /-- The flags of the SIGNAL receipts placed at the sample. -/
  placed : FlagSet

/-- The error selector accepts the error set (R80). -/
def ErrorSelector.accepts (s : ErrorSelector) (e : DecodeErrors) : Bool :=
  match s with
  | .any => true
  | .none => e.isEmpty
  | .some => !e.isEmpty

/-- A value equals another under a mask (R37, R79, R80). -/
def maskedEq (value pattern mask : BitVec 16) : Bool := value &&& mask == pattern &&& mask

/-- The new hold count of a condition at a sample (R79); only a PATTERN condition has one. -/
def Condition.holdAfter (c : Condition) (value : Levels) (hold : Nat) : Nat :=
  match c with
  | .pattern v m _ => if maskedEq value v m then min 65536 (hold + 1) else 0
  | .always | .edge _ _ | .decode _ _ _ _ _ | .counter _ _ | .flag _ _ => hold

/-- A condition at a sample (R78), given its hold count after the sample and the heard-flag set. -/
def Condition.eval (c : Condition) (i : SeqInputs) (heard : FlagSet) (hold : Nat) : Bool :=
  match c with
  | .always => true
  | .pattern _ _ h => decide (h ≤ hold)
  | .edge ch dir => i.sample.shows ch dir
  | .decode slot kind value mask errors =>
    i.records.any (fun r =>
      r.slot == slot && r.kind == kind && maskedEq r.value value mask && errors.accepts r.errors)
  | .counter k range =>
    (i.events.get k).seen &&
      (match range with
      | none => true
      | some (lo, hi) => decide (lo ≤ (i.events.get k).latch ∧ (i.events.get k).latch ≤ hi))
  | .flag flags all => if all then heard &&& flags == flags else heard &&& flags != 0

/-- The hold counts of a branch after a sample (R79). -/
def Branch.holdsAfter (b : Branch) (value : Levels) (h : BranchHolds) : BranchHolds :=
  ⟨b.condA.holdAfter value h.a, match b.condB with | none => h.b | some c => c.holdAfter value h.b⟩

/-- The hold counts of a stage after a sample. -/
def Stage.holdsAfter (st : Stage) (value : Levels) (h : StageHolds) : StageHolds :=
  ⟨st.primary.holdsAfter value h.primary,
    match st.alternate with | none => h.alternate | some b => b.holdsAfter value h.alternate⟩

/-- A branch's predicate (R81). An absent condition B counts as false; validation lets only combiner A lack it (R96). -/
def Branch.predicate (b : Branch) (i : SeqInputs) (heard : FlagSet) (h : BranchHolds) : Bool :=
  let a := b.condA.eval i heard h.a
  let bb := match b.condB with | none => false | some c => c.eval i heard h.b
  match b.combiner with
  | .a => a
  | .aAndB => a && bb
  | .aOrB => a || bb
  | .aAndNotB => a && !bb

/-- The sample is an occurrence under the branch's count mode (R81): none counts as not true. -/
def Branch.occurs (b : Branch) (pred : Bool) (prev : Option Bool) : Bool :=
  pred && (b.countsSamples || prev != some true)

/-- A stage with no PATTERN yet held. -/
def StageHolds.zero : StageHolds := ⟨⟨0, 0⟩, ⟨0, 0⟩⟩

/-- The current stage's branches. -/
def Sequencer.currentStage (q : Sequencer) : Option Stage := q.program[q.stage.val]?

/-- The branch taken at a sample, with the stage it leaves (R85). -/
structure Taken where
  fromStage : Fin 8
  branchId : BranchId
  branch : Branch

/-- The sequencer with the flags placed at a sample heard and every hold count updated (R79, R83). -/
def Sequencer.settle (q : Sequencer) (i : SeqInputs) : Sequencer :=
  { q with
    heard := q.heard ||| i.placed
    holds := List.zipWith (fun st h => st.holdsAfter i.sample.value h) q.program q.holds }

/-- The predicate of a branch of the current stage at a sample. -/
def Sequencer.predicateOf (q : Sequencer) (i : SeqInputs) (b : Branch) (alt : Bool) : Bool :=
  let h := q.holds.getD q.stage.val StageHolds.zero
  b.predicate i q.heard (if alt then h.alternate else h.primary)

/-- Both branches of the current stage count the sample (R84), and the branch that reached its count is taken, PRIMARY
before ALTERNATE (R85). `q` is settled. -/
def Sequencer.count (q : Sequencer) (i : SeqInputs) : Sequencer × Option Taken :=
  match q.currentStage with
  | none => (q, none)
  | some st =>
    let p := q.predicateOf i st.primary false
    let pc := q.primaryCount + (st.primary.occurs p q.primaryPrev).toNat
    let q' := { q with primaryCount := pc, primaryPrev := some p }
    match st.alternate with
    | none => (q', if st.primary.count ≤ pc then some ⟨q.stage, .primary, st.primary⟩ else none)
    | some alt =>
      let a := q.predicateOf i alt true
      let ac := q.alternateCount + (alt.occurs a q.alternatePrev).toNat
      ({ q' with alternateCount := ac, alternatePrev := some a },
        if st.primary.count ≤ pc then some ⟨q.stage, .primary, st.primary⟩
        else if alt.count ≤ ac then some ⟨q.stage, .alternate, alt⟩
        else none)

/-- A stage is entered (R86): counts 0, previous predicates none, and the flags heard at the entry alone. -/
def Sequencer.enter (q : Sequencer) (stage : Fin 8) (heard : FlagSet) : Sequencer :=
  { q with
    stage := stage, primaryCount := 0, alternateCount := 0, primaryPrev := none, alternatePrev := none,
    heard := heard }

/-- Every hold count of a program at 0. -/
def zeroHolds (program : List Stage) : List StageHolds := program.map (fun _ => StageHolds.zero)

/-- The sequencer evaluates a sample: counts, and the entry of the next stage when a branch is taken (R83 to R86). -/
def Sequencer.evaluate (q : Sequencer) (i : SeqInputs) : Sequencer × Option Taken :=
  let r := (q.settle i).count i
  match r.2 with
  | none => (r.1, none)
  | some t => (r.1.enter t.branch.nextStage (i.placed ||| t.branch.raises), some t)

/-- A taken ARM (R86, R89): stage 0 entered, heard set empty, hold counts 0. -/
def Sequencer.arm (q : Sequencer) : Sequencer := { q.enter 0 0 with holds := zeroHolds q.program }

/-- A successful load (R89, R96): the new program at stage 0, everything cleared, no load. -/
def Sequencer.activate (q : Sequencer) (program : List Stage) : Sequencer :=
  { q.enter 0 0 with program := program, isDefault := false, holds := zeroHolds program, load := none }

/-! ## Program image -/

/-- A field read from the front of the bytes, with the bytes after it. -/
abbrev Parse (α : Type) := Option (α × List Byte)

/-- An edge direction code of an EDGE condition (R170). -/
def edgeOfCode (n : Nat) : Option Edge :=
  match n with
  | 0 => some .rising
  | 1 => some .falling
  | 2 => some .either
  | _ => none

/-- A decode kind code (R170). -/
def recKindOfCode (n : Nat) : Option RecKind :=
  match n with
  | 0 => some .data
  | 1 => some .command
  | 2 => some .brk
  | _ => none

/-- An error selector code (R170). -/
def errorSelectorOfCode (n : Nat) : Option ErrorSelector :=
  match n with
  | 0 => some .any
  | 1 => some .none
  | 2 => some .some
  | _ => none

/-- Bits `lo` to `lo + w - 1` of a byte. -/
def bitsOf (b : Byte) (lo w : Nat) : Nat := b.toNat / 2 ^ lo % 2 ^ w

/-- A number's last value modulo a size of four. -/
def fin4 (n : Nat) : Fin 4 := ⟨n % 4, by omega⟩

/-- A number as a channel, modulo 16. -/
def fin16 (n : Nat) : Fin 16 := ⟨n % 16, by omega⟩

/-- A number as a stage number, modulo 8. -/
def fin8 (n : Nat) : Fin 8 := ⟨n % 8, by omega⟩

/-- Two bytes as sixteen bits, high byte first. -/
def word16 (hi lo : Byte) : BitVec 16 := hi ++ lo

/-- A condition of a program image (R170). An empty flag set fails (R96). Unnamed bits are ignored (log 17). -/
def parseCondition : List Byte → Parse Condition
  | [] => none
  | b :: rest =>
    match bitsOf b 5 3 with
    | 0 => some (.always, rest)
    | 1 =>
      match rest with
      | v1 :: v0 :: m1 :: m0 :: h1 :: h0 :: rest =>
        some (.pattern (word16 v1 v0) (word16 m1 m0) ((word16 h1 h0).toNat + 1), rest)
      | _ => none
    | 2 =>
      match rest with
      | e :: rest => (edgeOfCode (bitsOf e 4 2)).map (fun d => (.edge (fin16 (bitsOf e 0 4)) d, rest))
      | _ => none
    | 3 =>
      match rest with
      | k :: v1 :: v0 :: m1 :: m0 :: rest =>
        match recKindOfCode (bitsOf k 2 2), errorSelectorOfCode (bitsOf k 0 2) with
        | some kind, some sel =>
          some (.decode (fin4 (bitsOf b 0 2)) kind (word16 v1 v0) (word16 m1 m0) sel, rest)
        | _, _ => none
      | _ => none
    | 4 =>
      let k := fin4 (bitsOf b 0 2)
      if bitsOf b 2 1 = 0 then some (.counter k none, rest)
      else
        match rest with
        | l3 :: l2 :: l1 :: l0 :: h3 :: h2 :: h1 :: h0 :: rest =>
          some (.counter k (some (beNat [l3, l2, l1, l0], beNat [h3, h2, h1, h0])), rest)
        | _ => none
    | 5 =>
      match rest with
      | f :: rest => if f = 0 then none else some (.flag f (bitsOf b 0 1 == 1), rest)
      | _ => none
    | _ => none

/-- A combiner code (R170). -/
def combinerOfCode (n : Nat) : Combiner :=
  match n with
  | 0 => .a
  | 1 => .aAndB
  | 2 => .aOrB
  | _ => .aAndNotB

/-- A branch of a program image, judged against the declared stage count (R96, R170). -/
def parseBranch (stages : Nat) : List Byte → Parse Branch
  | b0 :: n1 :: n0 :: raises :: b4 :: rest =>
    match parseCondition rest with
    | none => none
    | some (a, rest) =>
      let build (b : Option Condition) (rest : List Byte) : Parse Branch :=
        let combiner := combinerOfCode (bitsOf b0 6 2)
        if combiner ≠ .a ∧ b = none then none
        else if stages ≤ bitsOf b0 0 3 then none
        else
          some
            ({ condA := a, condB := b, combiner := combiner,
               countsSamples := bitsOf b0 5 1 == 1,
               count := (word16 n1 n0).toNat + 1,
               nextStage := fin8 (bitsOf b0 0 3),
               trigger := bitsOf b0 4 1 == 1,
               raises := raises,
               restarts := BitVec.ofNat 4 (bitsOf b4 0 4),
               marker := bitsOf b0 3 1 == 1 }, rest)
      if bitsOf b4 7 1 = 0 then build none rest
      else
        match parseCondition rest with
        | none => none
        | some (b, rest) => build (some b) rest
  | _ => none

/-- A stage record of a program image (R170). -/
def parseStage (stages : Nat) : List Byte → Parse Stage
  | [] => none
  | b :: rest =>
    match parseBranch stages rest with
    | none => none
    | some (p, rest) =>
      if bitsOf b 0 1 = 0 then some (⟨p, none⟩, rest)
      else
        match parseBranch stages rest with
        | none => none
        | some (a, rest) => some (⟨p, some a⟩, rest)

/-- The outcome of validation: the program, or the index of the first stage that fails (R96). -/
inductive Validation where
  | valid (program : List Stage)
  | fails (stage : Nat)
  deriving DecidableEq, Repr

/-- The stage records from stage `i` on, `todo` of them (R96). When they end before the check byte the last stage fails. -/
def validateStages (stages : Nat) : Nat → Nat → List Byte → List Stage → Validation
  | i, 0, bytes, done => if bytes = [] then .valid done else .fails (i - 1)
  | i, todo + 1, bytes, done =>
    match parseStage stages bytes with
    | none => .fails i
    | some (st, rest) => validateStages stages (i + 1) todo rest (done ++ [st])

/-- The sum of the staged bytes modulo 256 (R95). -/
def imageSum (bytes : List Byte) : Byte := bytes.foldl (· + ·) 0

/-- Validation of a whole image, its last byte being the check byte (R96). -/
def validateImage (stages : Nat) (image : List Byte) : Validation := validateStages stages 0 stages image.dropLast []

end Sys2Proof.Machine
end

