-- ==== Sys2Proof/Machine/ColumnOps.lean ====
section
/-! DEFINITION. The Column Engine: window, snapshot, cells, passes and their ends (R136 to R152). -/

namespace Sys2Proof.Machine

/-! ## Places in the store -/

/-- The oldest retained sequence (R20); the next one when the store is empty. -/
def Store.oldest (st : Store) : Nat := st.nextSeq - st.records.length

/-- A record's close tick (R20), D being the divisor of the capture sampling record. -/
def Record.closeTick (d : Nat) : Record → Nat
  | .run r =>
    match r.lastTick with
    | none => r.start + r.length * d - 1
    | some t => t
  | .trigger t _ => t
  | .stage t _ _ _ => t
  | .signalIn t _ _ _ _ => t
  | .stateOverrun t _ => t
  | .decode _ t => t

/-- The RUN in a record. -/
def Record.run? : Record → Option Run
  | .run r => some r
  | .trigger _ _ | .stage _ _ _ _ | .signalIn _ _ _ _ _ | .stateOverrun _ _ | .decode _ _ => none

/-- The tick of a TRIGGER marker. -/
def Record.triggerTick? : Record → Option Nat
  | .trigger t _ => some t
  | .run _ | .stage _ _ _ _ | .signalIn _ _ _ _ _ | .stateOverrun _ _ | .decode _ _ => none

/-- The DECODE copy in a record, with its end tick. -/
def Record.copy? : Record → Option (DecodeRecord × Nat)
  | .decode r t => some (r, t)
  | .run _ | .trigger _ _ | .stage _ _ _ _ | .signalIn _ _ _ _ _ | .stateOverrun _ _ => none

/-- The newest retained RUN (R139). -/
def Store.newestRun (st : Store) : Option Run := st.records.reverse.findSome? Record.run?

/-- The tick of the retained TRIGGER marker (R139). -/
def Store.triggerMark (st : Store) : Option Nat := st.records.findSome? Record.triggerTick?

/-! ## The window -/

/-- The columns of a pass, N' = min(N, S) (R139). -/
def ReduceParams.width (p : ReduceParams) : Nat := min p.columns p.span

/-- Cells per column (R137). -/
def ReduceParams.cells (p : ReduceParams) : Nat := (channelsOf p.channels).length + (slotsOf p.slots).length

/-- Division that rounds up. -/
def ceilDiv (a b : Nat) : Nat := (a + b - 1) / b

/-- The first tick of column `c` of a window (R139). Column `c` ends just before column `c + 1` begins. -/
def ReduceParams.columnStart (p : ReduceParams) (w : Int) (c : Nat) : Int :=
  w + ((ceilDiv (c * p.span) p.width : Nat) : Int)

/-- The reference tick (R139), or none where a NEWEST reference finds no RUN. -/
def State.referenceTick (s : State) : Reference → Option Nat
  | .trigger => s.store.triggerMark
  | .newest => s.store.newestRun.map (fun r => (Record.run r).closeTick s.sampler.record.divisor)
  | .epoch => some 0

/-- The snapshot at a pass start (R140). A reference that is not found keeps the W of before. -/
def State.snapshot (s : State) (p : ReduceParams) (oldW : Int) : Snapshot :=
  let d := s.sampler.record.divisor
  let w := match s.referenceTick p.reference with
    | none => oldW
    | some t => (t : Int) + p.offset
  let below := s.store.records.takeWhile (fun r => decide ((r.closeTick d : Int) < w))
  { window := w
    horizon := s.store.nextSeq - 1
    floor := if below.length < s.store.records.length then some (s.store.oldest + below.length) else none
    predecessor := (below.reverse.findSome? Record.run?).map (fun r =>
      ⟨r.value, if s.sampler.record.mode = .timing then some ((Record.run r).closeTick d) else none⟩)
    live := s.capturing }

/-! ## Cells -/

/-- A RUN with the first and last tick of its coverage. -/
structure Cover where
  run : Run
  first : Nat
  last : Nat
  deriving DecidableEq, Repr

/-- The coverage of the RUNs of a pass, in store order (R141). Ticks above 2^48-1 are covered by no record (R139). -/
def coverage (rec : SamplingRecord) : List Run → List Cover
  | [] => []
  | [r] => [⟨r, r.start, min Config.tickMax ((Record.run r).closeTick rec.divisor)⟩]
  | r :: r' :: rest =>
    ⟨r, r.start, if rec.mode = .timing then (Record.run r).closeTick rec.divisor else r'.start - 1⟩
      :: coverage rec (r' :: rest)

/-- The start ticks of the RUNs of a pass with the channels that have an edge there (R143). -/
def edgesFrom (rec : SamplingRecord) : Option Predecessor → List Run → List (Nat × Levels)
  | _, [] => []
  | pred, r :: rest =>
    let changed : Levels :=
      match pred with
      | none => 0
      | some p =>
        match p.lastTick with
        | none => p.value ^^^ r.value
        | some t => if t + 1 = r.start then p.value ^^^ r.value else 0
    let here : Predecessor :=
      ⟨r.value, if rec.mode = .timing then some ((Record.run r).closeTick rec.divisor) else none⟩
    (r.start, changed) :: edgesFrom rec (some here) rest

/-- What a pass considers, as the store stands (R140): covers, edges, DECODE copies, and the copy set (R144). -/
structure PassView where
  covers : List Cover
  edges : List (Nat × Levels)
  copies : List (DecodeRecord × Nat)
  copySet : BitVec 4
  deriving DecidableEq, Repr

/-- The view of a pass from the store as it stands (R140, R145). -/
def State.passView (s : State) (sn : Snapshot) : PassView :=
  let floor := sn.floor.getD (sn.horizon + 1)
  let kept := (s.store.records.drop (floor - s.store.oldest)).take (sn.horizon + 1 - floor)
  let runs := kept.filterMap Record.run?
  { covers := coverage s.sampler.record runs
    edges := edgesFrom s.sampler.record sn.predecessor runs
    copies := kept.filterMap Record.copy?
    copySet := s.decoders.copySet }

/-- The cover reaches into the ticks from `lo` to before `hi`. -/
def Cover.meets (c : Cover) (lo hi : Int) : Bool := decide ((c.first : Int) < hi ∧ lo ≤ (c.last : Int))

/-- How many of the ticks from `lo` to before `hi` the cover holds. -/
def Cover.share (c : Cover) (lo hi : Int) : Nat := (min hi (c.last + 1 : Int) - max lo (c.first : Int)).toNat

/-- A channel cell (R142, R143), as laid out by R170. The column holds the ticks from `lo` to before `hi`. -/
def PassView.channelCell (v : PassView) (lo hi : Int) (ch : Channel) : Byte :=
  let here := v.covers.filter (fun c => c.meets lo hi)
  let low := here.any (fun c => !hasChannel c.run.value ch)
  let high := here.any (fun c => hasChannel c.run.value ch)
  let glitch := here.any (fun c => hasChannel c.run.mask ch)
  let covered : Nat := here.foldl (fun (n : Nat) c => n + c.share lo hi) 0
  let edges := v.edges.countP (fun e => decide (lo ≤ (e.1 : Int) ∧ (e.1 : Int) < hi) && hasChannel e.2 ch)
  byteOf (64 * low.toNat + 128 * high.toNat + 32 * glitch.toNat
    + 16 * (decide (here ≠ []) && decide ((covered : Int) < hi - lo)).toNat + min 15 edges)

/-- A decoder cell (R144), as laid out by R170. -/
def PassView.slotCell (v : PassView) (lo hi : Int) (slot : Fin 4) : Byte :=
  if !v.copySet.getLsbD slot.val then 0x80
  else
    let mine := v.copies.filter (fun c => c.1.slot == slot)
    let count := mine.countP (fun c => decide (lo ≤ (c.1.start : Int) ∧ (c.1.start : Int) < hi))
    let spans (c : DecodeRecord × Nat) : Bool := decide ((c.1.start : Int) < hi ∧ lo ≤ (c.2 : Int))
    let goesOn := mine.any (fun c => spans c && decide ((c.1.start : Int) < lo))
    let error := mine.any (fun c => spans c && !c.1.errors.isEmpty)
    byteOf (64 * goesOn.toNat + 32 * error.toNat + min 15 count)

/-- The cells of one column: channels, then slots, each in increasing order (R145). -/
def PassView.column (v : PassView) (p : ReduceParams) (w : Int) (c : Nat) : List Byte :=
  let lo := p.columnStart w c
  let hi := p.columnStart w (c + 1)
  (channelsOf p.channels).map (v.channelCell lo hi) ++ (slotsOf p.slots).map (v.slotCell lo hi)

/-! ## Passes -/

/-- Columns of one post (R145). -/
def ReduceParams.capacity (p : ReduceParams) : Nat := Config.cellCapacity / p.cells

/-- The next post of a pass (R145): as many columns as fit, LAST and COMPLETE with the last one. -/
def State.nextPost (s : State) (r : Reduction) : ColumnsPost :=
  let first := s.columns.nextColumn
  let count := min r.params.capacity (r.params.width - first)
  let view := s.passView r.snapshot
  { dest := r.owner
    ofCurrent := true
    pass := r.pass
    window := r.snapshot.window
    first := first
    count := count
    cells := (List.range count).flatMap (fun i => view.column r.params r.snapshot.window (first + i))
    last := if r.params.width ≤ first + count then some .complete else none }

/-- A post of a pass is composed: the next column moves past it, and the pass is PASSING, or CLOSING with its final post
(R138, R145). -/
def State.composeColumns (s : State) (r : Reduction) : State :=
  let post := s.nextPost r
  s.withColumns
    { current := some { r with phase := if post.last.isSome then .closing else .passing }
      nextColumn := post.first + post.count
      outgoing := s.columns.outgoing ++ [post] }

/-- A pass begins (R138, R146, R151): its next column is 0 and its first post is composed. -/
def State.beginPass (s : State) (r : Reduction) : State :=
  (s.withColumns { s.columns with nextColumn := 0 }).composeColumns r

/-- A new current reduction (R138). -/
def State.beginReduction (s : State) (owner : Station) (p : ReduceParams) : State :=
  let r : Reduction := ⟨owner, p, .starting, 0, s.snapshot p p.offset⟩
  if s.columns.outgoing = [] then s.beginPass r
  else s.withColumns { s.columns with current := some r, nextColumn := 0 }

/-- An end post (R147). -/
def Reduction.endPost (r : Reduction) (ofCurrent : Bool) (pass : Nat) (window : Int) (first : Nat) (why : EndReason) :
    ColumnsPost :=
  { dest := r.owner, ofCurrent := ofCurrent, pass := pass, window := window, first := first, count := 0, cells := [],
    last := some why }

/-- An announced overwrite meets the engine (R146): at or above the floor of a pass in PASSING it overtakes the pass. -/
def ColumnEngine.overwrite (e : ColumnEngine) (seq : Nat) : ColumnEngine :=
  match e.current with
  | none => e
  | some r =>
    if r.phase = .passing ∧ r.snapshot.floor.getD (r.snapshot.horizon + 1) ≤ seq then
      { e with
        current := some { r with phase := .closing }
        outgoing := e.outgoing ++ [r.endPost true r.pass r.snapshot.window e.nextColumn .overtaken] }
    else e

/-- Another pass comes after the pass in progress (R147, R151). -/
def Reduction.repeats (r : Reduction) : Bool := r.params.repeatCode != 0 && r.snapshot.live

/-- The pass number after this one (R145). -/
def Reduction.nextPass (r : Reduction) : Nat := (r.pass + 1) % 256

/-- The W of the pass that would come next (R147): the same under TRIGGER and EPOCH, and a free value under NEWEST, whose W
is read at a pass start that never came (log 14). -/
def State.nextWindow (s : State) (r : Reduction) : Int :=
  if r.params.reference = .newest then (Config.freeWindow s.freeDraws).toInt else r.snapshot.window

/-- The end post of the pass that would come next, with first column 0 (R147). -/
def State.nextEndPost (s : State) (r : Reduction) (why : EndReason) : ColumnsPost :=
  r.endPost false r.nextPass (s.nextWindow r) 0 why

/-- A free value was drawn when the end post of a next pass needed one (log 32). -/
def State.drawForWindow (s : State) (r : Reduction) : State :=
  if r.params.reference = .newest then s.withFreeDraws (s.freeDraws + 1) else s

/-- The posts left of a reduction that is no longer current. -/
def ColumnEngine.disowned (e : ColumnEngine) : List ColumnsPost := e.outgoing.map (fun p => { p with ofCurrent := false })

/-- The current reduction ends CANCELLED, SUPERSEDED or DISCARDED (R147 to R150), by its phase. -/
def State.endReduction (s : State) (why : EndReason) : State :=
  match s.columns.current with
  | none => s
  | some r =>
    let kept := s.columns.disowned
    match r.phase with
    | .starting => s.withColumns { s.columns with current := none, outgoing := kept }
    | .passing =>
      s.withColumns
        { s.columns with
          current := none
          outgoing := kept ++ [r.endPost false r.pass r.snapshot.window s.columns.nextColumn why] }
    | .closing =>
      if r.repeats then
        (s.drawForWindow r).withColumns
          { s.columns with current := none, outgoing := kept ++ [s.nextEndPost r why] }
      else s.withColumns { s.columns with current := none, outgoing := kept }
    | .waiting _ =>
      (s.drawForWindow r).withColumns { s.columns with current := none, outgoing := kept ++ [s.nextEndPost r why] }

/-- The pass in STARTING begins once nothing else is outgoing, with its snapshot taken afresh (R140, R146, log 19). -/
def State.startIfClear (s : State) : State :=
  match s.columns.current with
  | none => s
  | some r =>
    if r.phase = .starting ∧ s.columns.outgoing = [] then
      s.beginPass { r with snapshot := s.snapshot r.params r.snapshot.window }
    else s

/-- A COLUMNS post of the current reduction was sent in full (R145, R151). -/
def State.ownPostSent (s : State) (r : Reduction) (post : ColumnsPost) : State :=
  match post.last with
  | none => if r.phase = .passing then s.composeColumns r else s
  | some _ =>
    if r.repeats then
      s.withColumns
        { s.columns with
          current := some
            { r with phase := .waiting (s.time.elapsed + r.params.repeatCode * Config.ticksPerRepeatStep) } }
    else s.withColumns { s.columns with current := none }

/-- The head of the outgoing list was sent in full (R138, R145, R147, R151). -/
def State.columnsSent (s : State) : State :=
  match s.columns.outgoing with
  | [] => s
  | post :: rest =>
    let s' := s.withColumns { s.columns with outgoing := rest }
    match s.columns.current with
    | none => s'
    | some r => if post.ofCurrent then s'.ownPostSent r post else s'.startIfClear

/-- The repeat timer's expiry (R151): the next pass, with a new snapshot. -/
def State.repeatPass (s : State) (r : Reduction) : State :=
  s.beginPass { r with pass := r.nextPass, snapshot := s.snapshot r.params r.snapshot.window }

end Sys2Proof.Machine
end

