-- ==== Sys2Proof/Machine/StoreOps.lean ====
section
/-! DEFINITION. The Capture Store: placing, overwriting and refusing records (R20 to R28), and the readout unit's building and walking (R32 to R39). -/

namespace Sys2Proof.Machine

/-! ## Placing records -/

/-- Retained pre-trigger records P: those below the trigger sequence (R24, R25). -/
def Store.preTrigger (st : Store) : Nat :=
  match st.trigger with
  | none => st.records.length
  | some t => t.sequence - st.oldest

/-- A full store gives up its oldest record: always while there is no trigger position (R23), and after the trigger while P
exceeds min(F, n0) (R25). -/
def Store.mayOverwrite (st : Store) : Bool :=
  match st.trigger with
  | none => true
  | some t => decide (min st.floor t.n0 < st.preTrigger)

/-- The record is written behind the newest and takes the next sequence number (R20). -/
def Store.append (st : Store) (r : Record) : Store :=
  { st with records := st.records ++ [r], nextSeq := st.nextSeq + 1 }

/-- The oldest record leaves (R20). -/
def Store.dropOldest (st : Store) : Store := { st with records := st.records.drop 1 }

/-- A retained record by its sequence number. -/
def Store.recordAt (st : Store) (seq : Nat) : Option Record :=
  if seq < st.oldest then none else st.records[seq - st.oldest]?

/-- The sequence number is retained (R20). -/
def Store.retains (st : Store) (seq : Nat) : Bool := decide (st.oldest ≤ seq ∧ seq < st.nextSeq)

/-! ## Readout -/

/-- The sequence of the record copied next (R34). -/
def ReadJob.next (j : ReadJob) : Nat := j.firstSeq + j.copied.length

/-- The RECORDS post of a read that stops building as it stands. -/
def ReadJob.post (j : ReadJob) : RecordsPost := { dest := j.dest, firstSeq := j.firstSeq, records := j.copied }

/-- The last-reference pointer after a read that copied something: the far end of the read (R35). -/
def ReadJob.farEnd (j : ReadJob) (old : Option Nat) : Option Nat :=
  if j.copied = [] then old else some (if j.downward then j.firstSeq else j.firstSeq + j.copied.length - 1)

/-- Building ends: the post enters HOLDING and the pointer follows the read (R34, R35). -/
def State.finishRead (s : State) (j : ReadJob) (post : RecordsPost) : State :=
  (s.withReadout (.holding post)).withStore { s.store with lastRef := j.farEnd s.store.lastRef }

/-- An overwrite is announced to the readout unit: it ends a building read that has still to copy the record (R28, R34).
Building has not begun while the read's answer waits (R34, log 38). -/
def State.announceToReadout (s : State) (seq : Nat) : State :=
  match s.readout with
  | .building j =>
    if !j.waitsForAnswer && decide (j.next ≤ seq ∧ seq < j.firstSeq + j.want) then
      s.finishRead j { j.post with overwritten := true }
    else s
  | .free | .walking _ | .holding _ => s

/-- An overwrite is announced to the Column Engine and the readout unit (R28). -/
def State.announce (s : State) (seq : Nat) : State :=
  (s.withColumns (s.columns.overwrite seq)).announceToReadout seq

/-- A record is brought to the store (R23, R25): `none` when it cannot be placed (R26). -/
def State.place (s : State) (r : Record) : Option State :=
  if s.store.records.length < Config.storeCapacity then some (s.withStore (s.store.append r))
  else if s.store.mayOverwrite then
    some ((s.withStore (s.store.dropOldest.append r)).announce s.store.oldest)
  else none

/-- Records placed in order; placing stops at the first that is refused (R26). The second part tells that all were placed. -/
def State.placeList : List Record → State → State × Bool
  | [], s => (s, true)
  | r :: rest, s =>
    match s.place r with
    | none => (s, false)
    | some s' => State.placeList rest s'

/-- More records after earlier ones, unless one was refused already (R26). -/
def placeNext (p : State × Bool) (records : List Record) : State × Bool :=
  if p.2 then State.placeList records p.1 else p

/-! ## Reads and walks in progress -/

/-- A building read copies its next record, or finds that it ends (R34). A record overwritten while the answer waited closes
the read as one overwritten before its copy (log 38). -/
def State.buildStep (s : State) (j : ReadJob) : State :=
  if s.store.nextSeq ≤ j.next then s.finishRead j { j.post with atEnd := true }
  else
    match s.store.recordAt j.next with
    | none => s.finishRead j { j.post with overwritten := true }
    | some r =>
      let j' := { j with copied := j.copied ++ [r] }
      if j'.copied.length < j.want then s.withReadout (.building j')
      else s.finishRead j' { j'.post with atEnd := decide (j.want < j.count) }

/-- A record meets a search criterion (R37). -/
def Criterion.accepts (c : Criterion) (r : Record) : Bool :=
  match c, r with
  | .runPattern p m, .run x => maskedEq x.value p m
  | .decodeWord slot kind v m, .decode d _ => d.slot == slot && d.kind == kind && maskedEq d.value v m
  | .marker .trigger, .trigger _ _ => true
  | .marker .stage, .stage _ _ _ _ => true
  | .marker .signalIn, .signalIn _ _ _ _ _ => true
  | .marker .stateOverrun, .stateOverrun _ _ => true
  | _, _ => false

/-- The record at which a walk begins (R38), or none. -/
def Store.walkStart (st : Store) (d : Direction) : Option Nat :=
  if st.records = [] then none
  else
    let newest := st.nextSeq - 1
    match d, st.lastRef with
    | .forward, none => some st.oldest
    | .backward, none => some newest
    | .forward, some r => if r < newest then some (max (r + 1) st.oldest) else none
    | .backward, some r => if st.oldest < r then some (min (r - 1) newest) else none

/-- The first match at or after place `i` of the records. -/
def findForward (c : Criterion) (i : Nat) : List Record → Option Nat
  | [] => none
  | r :: rest => if c.accepts r then some i else findForward c (i + 1) rest

/-- The record a walk finds: the first match among the retained records from its start on, in its direction (R38). -/
def Store.walkFind (st : Store) (j : WalkJob) : Option Nat :=
  match j.direction with
  | .forward =>
    let first := max j.start st.oldest
    findForward j.criterion first (st.records.drop (first - st.oldest))
  | .backward =>
    if j.start < st.oldest then none
    else
      let first := min j.start (st.nextSeq - 1)
      (findForward j.criterion 0 (st.records.take (first - st.oldest + 1)).reverse).map (fun n => first - n)

/-- A RECORDS post without a record (R38, R39). -/
def emptyRecords (dest : Station) (firstSeq : Nat) : RecordsPost := { dest := dest, firstSeq := firstSeq, records := [] }

/-- A walk ends (R38): the post holds the match, and the pointer names it, or it carries NOT_FOUND. -/
def State.endWalk (s : State) (j : WalkJob) : State :=
  match s.store.walkFind j with
  | none => s.withReadout (.holding { emptyRecords j.dest j.start with notFound := true })
  | some seq =>
    (s.withReadout (.holding { emptyRecords j.dest seq with records := (s.store.recordAt seq).toList })).withStore
      { s.store with lastRef := some seq }

/-- A walk without a record to start at ends NOT_FOUND at once (R38). Its first sequence is a free value (logs 13 and 32). -/
def State.emptyWalk (s : State) (dest : Station) : State :=
  (s.withFreeDraws (s.freeDraws + 1)).withReadout
    (.holding { emptyRecords dest (Config.freeSequence s.freeDraws).toNat with notFound := true })

/-- A taken SEARCH begins its walk at the record that the pointer and the direction give (R38). -/
def State.beginWalk (s : State) (dest : Station) (c : Criterion) (d : Direction) : State :=
  match s.store.walkStart d with
  | none => s.emptyWalk dest
  | some start => s.withReadout (.walking ⟨dest, c, d, start⟩)

/-- A taken ARM meets the readout unit (R36, R39). The pointer stays none, as the ARM sets it. -/
def State.armReadout (s : State) : State :=
  match s.readout with
  | .free | .holding _ => s
  | .building j => s.withReadout (.holding { j.post with discarded := true })
  | .walking j => s.withReadout (.holding { emptyRecords j.dest j.start with discarded := true })

/-- The store emptied at a taken ARM, without announcements (R30). F stays. -/
def Store.emptied (st : Store) : Store := { Store.reset with floor := st.floor }

end Sys2Proof.Machine
end

