-- ==== Sys2Proof/Machine/StreamerOps.lean ====
section
/-! DEFINITION. The Streamer: the decode queue, losses, readiness and discards (R123 to R133). -/

namespace Sys2Proof.Machine

/-- A loss count raised by `n`, which stops at 65,535 (R125, R132). -/
def addLoss (losses : Quad Nat) (slot : Fin 4) (n : Nat) : Quad Nat :=
  losses.set slot (min Config.countMax (losses.get slot + n))

/-- What became of a record that reached the Streamer (R124, R125). -/
inductive JoinOutcome where
  | notQueued | joined | lost
  deriving DecidableEq, Repr

/-- Where a record of a slot goes when it reaches the Streamer (R124, R125). -/
def Streamer.joinOutcome (st : Streamer) (slotStreams : Bool) : JoinOutcome :=
  if !slotStreams || !st.on then .notQueued
  else if st.queue.length < Config.queueCapacity then .joined
  else .lost

/-- A record joins the queue: it takes its slot's loss count with it (R124). -/
def Streamer.join (st : Streamer) (now : Nat) (r : DecodeRecord) : Streamer :=
  { st with
    queue := st.queue ++ [⟨r, min 255 (st.losses.get r.slot), now⟩]
    losses := st.losses.set r.slot 0 }

/-- The records lost at an elapsed time, in slot order (R125). -/
def Streamer.lostAt (st : Streamer) (now : Nat) : List LostRecord := st.lostNow.filter (fun x => x.time == now)

/-- A record is lost (R125). The records lost at one instant are kept while it lasts (log 40). -/
def Streamer.lose (st : Streamer) (now : Nat) (r : DecodeRecord) : Streamer :=
  { st with
    losses := addLoss st.losses r.slot 1
    lostNow := st.lostAt now ++ [⟨r, st.losses.get r.slot, now⟩] }

/-- A decode record reaches the Streamer at an elapsed time (R124, R125). -/
def Streamer.receive (st : Streamer) (slotStreams : Bool) (now : Nat) (r : DecodeRecord) : Streamer :=
  match st.joinOutcome slotStreams with
  | .notQueued => st
  | .joined => st.join now r
  | .lost => st.lose now r

/-- The records of a sample reach the Streamer in slot order (R101, R123). The second part tells whether one was lost. -/
def Streamer.receiveAll (streams : Fin 4 → Bool) (now : Nat) : List DecodeRecord → Streamer → Streamer × Bool
  | [], st => (st, false)
  | r :: rest, st =>
    let lost := st.joinOutcome (streams r.slot) == .lost
    let q := Streamer.receiveAll streams now rest (st.receive (streams r.slot) now r)
    (q.1, lost || q.2)

/-- The age of the oldest record in ticks of elapsed time (R129). -/
def Streamer.oldestAge (st : Streamer) (now : Nat) : Option Nat :=
  match st.queue with
  | [] => none
  | r :: _ => some (now - r.entry)

/-- The oldest record has reached the age limit W x 100 us (R129). -/
def Streamer.ageLimitReached (st : Streamer) (now : Nat) : Bool :=
  match st.oldestAge now with
  | none => false
  | some a => decide (st.timeout * Config.ticksPerBatchStep ≤ a)

/-- Readiness by age judged afresh (R126, R129). -/
def Streamer.judgeAge (st : Streamer) (now : Nat) : Streamer := { st with ageReached := st.ageLimitReached now }

/-- A post is ready, the link holding none of the node's posts (R128, R129). -/
def Streamer.ready (st : Streamer) : Bool :=
  st.on && st.queue != [] &&
    (if st.batch then decide (st.threshold ≤ st.queue.length) || st.ageReached else true)

/-- How many records a post takes: one in SINGLE, up to eight in BATCH (R128, R129). -/
def Streamer.postSize (st : Streamer) : Nat :=
  if st.batch then min Config.postRecords st.queue.length else min 1 st.queue.length

/-- Removed records count into their slots' losses, with the lost-before figures they carried (R132). -/
def countRemoved (losses : Quad Nat) (removed : List QueuedRecord) : Quad Nat :=
  removed.foldl (fun l r => addLoss l r.body.slot (1 + r.lostBefore)) losses

/-- A discard (R132): every record not in flight is removed and counted; those in flight are marked. -/
def Streamer.discard (st : Streamer) (now : Nat) : Streamer :=
  ({ st with
      queue := st.queue.take st.inFlight
      losses := countRemoved st.losses (st.queue.drop st.inFlight)
      discardMarked := decide (0 < st.inFlight)
      lostNow := [] } : Streamer).judgeAge now

/-- A discard removes at least one record at once (R132). -/
def Streamer.discardRemoves (st : Streamer) : Bool := st.queue.drop st.inFlight != []

/-- The post was sent in full: its records leave the queue (R130). -/
def Streamer.postSent (st : Streamer) (now : Nat) : Streamer :=
  ({ st with queue := st.queue.drop st.inFlight, inFlight := 0, discardMarked := false } : Streamer).judgeAge now

/-- A record that met the full queue at this instant meets it again after places were freed: it joins with the loss count its
slot had before it, or is lost as before (R125). -/
def Streamer.retry (st : Streamer) (now : Nat) (x : LostRecord) : Streamer :=
  if st.queue.length < Config.queueCapacity then
    ({ st with losses := st.losses.set x.body.slot x.countBefore } : Streamer).join now x.body
  else st

/-- Places were freed before the last `later` of the records lost at this instant met the queue (R125, log 40). -/
def Streamer.freedBetween (st : Streamer) (now later : Nat) : Streamer :=
  let lost := st.lostAt now
  (lost.drop (lost.length - later)).foldl (fun st x => st.retry now x) { st with lostNow := [] }

/-- The post was withdrawn or abandoned: its records stay at the head, or are removed and counted when a discard was taken
meanwhile (R130, R132). -/
def Streamer.postReturned (st : Streamer) (now : Nat) : Streamer :=
  if st.discardMarked then
    ({ st with
        queue := st.queue.drop st.inFlight
        losses := countRemoved st.losses (st.queue.take st.inFlight)
        inFlight := 0
        discardMarked := false } : Streamer).judgeAge now
  else { st with inFlight := 0 }

/-- The return of the post removes records (R132). -/
def Streamer.returnRemoves (st : Streamer) : Bool := st.discardMarked && st.queue.take st.inFlight != []

/-- A batch timeout is still to be acted on (R129). -/
def Streamer.ageDue (st : Streamer) (now : Nat) : Bool :=
  st.on && st.batch && !st.ageReached && st.ageLimitReached now

end Sys2Proof.Machine
end

