-- ==== Sys2Proof/Machine/CaptureOps.lean ====
section
/-! DEFINITION. Capture Control and the sample pipeline: arming (R41 to R43), the trigger (R45), a sample handed to every consumer (R7, R21), the capture end (R17, R26, R50). -/

namespace Sys2Proof.Machine

/-! ## Arm checks -/

/-- The conditions of a branch. -/
def Branch.conditions (b : Branch) : List Condition := b.condA :: b.condB.toList

/-- The conditions of a stage, as written. -/
def Stage.conditions (st : Stage) : List Condition :=
  st.primary.conditions ++ st.alternate.toList.flatMap Branch.conditions

/-- Every condition of the active program (R42). -/
def Sequencer.conditions (q : Sequencer) : List Condition := q.program.flatMap Stage.conditions

/-- The condition names a slot of kind OFF (check 2). -/
def Condition.namesOffSlot (b : DecoderBank) : Condition → Bool
  | .decode slot _ _ _ _ => (b.slots.get slot).kind == .off
  | .always | .pattern _ _ _ | .edge _ _ | .counter _ _ | .flag _ _ => false

/-- The condition names a counter in mode OFF (check 3). -/
def Condition.namesOffCounter (b : CounterBank) : Condition → Bool
  | .counter k _ => (b.k.get k).settings.mode == .off
  | .always | .pattern _ _ _ | .edge _ _ | .decode _ _ _ _ _ | .flag _ _ => false

/-- A kind settings block is ASYNC (check 1). -/
def DecoderKind.isAsync : DecoderKind → Bool
  | .async _ => true
  | .off | .clocked _ | .strobed _ => false

/-- The channels that a slot's settings name (check 5). -/
def DecoderKind.channels : DecoderKind → List Channel
  | .off => []
  | .async c => [c.data]
  | .clocked c => [c.clock, c.data] ++ (c.select.map ActiveLine.ch).toList
  | .strobed c =>
    allChannels.filter (fun ch => decide (c.base.val ≤ ch.val ∧ ch.val < c.base.val + c.width))
      ++ [c.strobe.ch] ++ (c.ack.map (fun a => a.line.ch)).toList ++ c.selector.toList

/-- A counter fails check 4 of R42. -/
def CounterSettings.failsSource (c : CounterSettings) (enabled : Levels) : Bool :=
  c.mode != .off
    && ((c.source == .edge && !hasChannel enabled c.sourceChannel)
      || (c.mode == .period && (!hasChannel enabled c.periodChannel || c.source == .edge)))

/-- A pair fails check 6 of R42. -/
def pairFails (cascade : Bool) (low high : CounterMode) : Bool :=
  (cascade && high != .cascade) || (high == .cascade && !(low == .count || low == .period))

/-- The arm checks that fail, in order (R42). -/
def State.armChecks (s : State) : List (Nat × Bool) :=
  let slots := s.decoders.slots.toList
  let cs := s.seq.conditions
  let b := s.counters
  [ (1, s.sampler.settings.mode == .state && slots.any (fun d => d.kind.isAsync)),
    (2, cs.any (Condition.namesOffSlot s.decoders)),
    (3, cs.any (Condition.namesOffCounter b)),
    (4, b.k.toList.any (fun c => c.settings.failsSource s.pfe.enabled)),
    (5, slots.any (fun d => d.kind.channels.any (fun ch => !hasChannel s.pfe.enabled ch))),
    (6, pairFails b.cascade01 b.k.q0.settings.mode b.k.q1.settings.mode
      || pairFails b.cascade23 b.k.q2.settings.mode b.k.q3.settings.mode) ]

/-- The first arm check that fails (R41, R42). -/
def State.armConflict (s : State) : Option Nat := (s.armChecks.find? (fun c => c.2)).map Prod.fst

/-! ## Arming -/

/-- The Sampler at a taken ARM (R43, R6, R17). -/
def Sampler.arm (p : Sampler) : Sampler :=
  { Sampler.reset with settings := p.settings, record := ⟨p.settings.mode, p.settings.divisor⟩ }

/-- Capture Control at a taken ARM (R43, R44). -/
def CaptureControl.arm (c : CaptureControl) (tick : Nat) : CaptureControl :=
  { c with
    state := .armed
    reason := .none
    countdown := 0
    forcePending := false
    armTimer := if c.armLimit = 0 then none else some (tick + c.armLimit * Config.ticksPerMs) }

/-- A discard of the decode queue (R132), with DECODE_LOSS when it removes a record at once. -/
def State.discardQueue (s : State) : State :=
  let s' := s.withStreamer (s.streamer.discard s.time.elapsed)
  if s.streamer.discardRemoves then s'.withNotices NoticeSet.setDecodeLoss else s'

/-- The effects of a taken ARM but for the report station (R43), which a wake ARM leaves alone (R55). -/
def State.armEffects (s : State) : State :=
  let s := ((s.armReadout.endReduction .discarded).discardQueue)
  let s := s.withColumns { s.columns with nextColumn := 0 }
  let s := (s.withStore s.store.emptied).withSampler s.sampler.arm
  let s := (s.withCounters (s.counters.restartAll s.tick)).withSeq s.seq.arm
  (s.withDecoders s.decoders.arm).withCapture (s.capture.arm s.tick)

/-! ## The capture end -/

/-- The open run is closed into the store unless the end is STORE_LIMIT; a refusal of it makes the reason STORE_LIMIT
(R17, R26). -/
def State.closeLastRun (s : State) (why : Reason) : State × Reason :=
  if why = .storeLimit then (s, why)
  else
    match s.sampler.openRun with
    | none => (s, why)
    | some run =>
      match s.place (.run run) with
      | none => (s, .storeLimit)
      | some s' => (s', why)

/-- The Sampler at the capture end (R17). -/
def Sampler.stop (p : Sampler) : Sampler :=
  { p with openRun := none, hold := none, delayLine := [], clockEdges := [] }

/-- Capture Control at an entry to DONE (R50). -/
def CaptureControl.finish (c : CaptureControl) (why : Reason) : CaptureControl :=
  { c with state := .done, reason := why, armTimer := none, forcePending := false }

/-- An entry to DONE (R50). -/
def State.endCapture (s : State) (why : Reason) : State :=
  let p := s.closeLastRun why
  let s := p.1
  let s := (s.withSampler s.sampler.stop).withStore { s.store with placement := [] }
  let s := (s.withDecoders s.decoders.stop).withCounters s.counters.stop
  (s.withCapture (s.capture.finish p.2)).withNotices (fun n => n.setDone p.2)

/-! ## The run former -/

/-- A run of one sample (R15). -/
def Sampler.newRun (p : Sampler) (x : Sample) : Run :=
  ⟨x.value, x.mask, x.tick, 1, if p.record.mode = .state then some x.tick else none⟩

/-- The run extended by a sample (R15). -/
def Run.extend (r : Run) (x : Sample) : Run :=
  { r with length := r.length + 1, lastTick := r.lastTick.map (fun _ => x.tick) }

/-- The sample extends the run (R15); the trigger sample extends none (R16). -/
def Run.accepts (r : Run) (x : Sample) (isTrigger : Bool) : Bool :=
  !isTrigger && r.value == x.value && r.mask == x.mask && decide (r.length < 65535)

/-- The run the sample closes, and the run open after it (R15, R16). -/
def Sampler.formRun (p : Sampler) (x : Sample) (isTrigger : Bool) : Option Run × Run :=
  match p.openRun with
  | none => (none, p.newRun x)
  | some r => if r.accepts x isTrigger then (none, r.extend x) else (some r, p.newRun x)

/-- The Sampler after a sample whose run is given (R7, R9). -/
def Sampler.afterSample (p : Sampler) (x : Sample) (run : Run) : Sampler :=
  { p with
    openRun := some run
    nextIndex := p.nextIndex + 1
    prevValue := some x.value
    lastSampleTick := some x.tick
    levelsRead := some ⟨x.tick, x.value⟩
    movedOnce := 0
    movedTwice := 0 }

/-- The missed edges are written: the count is 0, and no pending sample waits to carry them (R14, log 20). -/
def Sampler.missesWritten (p : Sampler) : Sampler :=
  { p with
    missed := 0
    missSinceTaken := false
    hold := p.hold.map (fun h => { h with afterMiss := false })
    delayLine := p.delayLine.map (fun e => { e with afterMiss := false }) }

/-! ## The trigger -/

/-- The cause when the sample is the trigger sample (R45, R46): the sequencer's branch before a pending force. -/
def State.triggerCause (s : State) (taken : Option Taken) : Option Cause :=
  if s.capture.state ≠ .armed then none
  else
    match taken with
    | some t =>
      if t.branch.trigger then some (.stage t.fromStage t.branchId)
      else if s.capture.forcePending then some .forced else none
    | none => if s.capture.forcePending then some .forced else none

/-- Capture Control at the trigger sample (R45). -/
def CaptureControl.trigger (c : CaptureControl) : CaptureControl :=
  { c with state := .triggered, armTimer := none, forcePending := false, countdown := c.postDepth }

/-- Entry to TRIGGERED at a sample (R24, R45): n0 is noted, the marker placed, the TRIGGERED notice set. -/
def State.enterTriggered (s : State) (tick : Nat) (cause : Cause) : State :=
  let seq := s.store.nextSeq
  let s := s.withStore { s.store with trigger := some ⟨seq, s.store.records.length⟩ }
  let s := (s.place (.trigger tick cause)).getD s
  (s.withCapture s.capture.trigger).withNotices (fun n => n.setTriggered ⟨tick, seq, cause⟩)

/-! ## A sample -/

/-- The SIGNAL_IN markers placed at a sample (R22). -/
def Store.signalMarkers (st : Store) (tick : Nat) : List Record :=
  st.placement.map (fun e => .signalIn tick e.receipt e.sender e.flags e.origin)

/-- The flags of the receipts placed at a sample (R22, R90). -/
def Store.placedFlags (st : Store) : FlagSet := st.placement.foldl (fun f e => f ||| e.flags) 0

/-- The DECODE copies of the slots with store copies on (R27). -/
def DecoderBank.copies (b : DecoderBank) (tick : Nat) (records : List DecodeRecord) : List Record :=
  (records.filter (fun r => (b.slots.get r.slot).storeCopies)).map (fun r => .decode r tick)

/-- The STAGE marker of a taken branch with marker set (R21). -/
def stageMarker (tick : Nat) (taken : Option Taken) : List Record :=
  match taken with
  | none => []
  | some t => if t.branch.marker then [.stage tick t.fromStage t.branch.nextStage t.branchId] else []

/-- The STATE_OVERRUN marker that precedes a sample (R14): once placed, the count returns to 0. -/
def placeOverrun (p : State × Bool) (tick : Nat) (afterMiss : Bool) : State × Bool :=
  if afterMiss && decide (0 < p.1.sampler.missed) then
    let q := placeNext p [.stateOverrun tick p.1.sampler.missed]
    if q.2 then (q.1.withSampler q.1.sampler.missesWritten, true) else q
  else p

/-- The records of a sample, in the order of R21, with the entry to TRIGGERED at its place. -/
def State.writeSample (s : State) (x : Sample) (afterMiss : Bool) (closed : Option Run) (copies : List Record)
    (cause : Option Cause) (taken : Option Taken) : State × Bool :=
  let p := State.placeList (closed.toList.map .run) s
  let p := placeOverrun p x.tick afterMiss
  let p := placeNext p (s.store.signalMarkers x.tick)
  let p := placeNext p copies
  let p := match cause with
    | none => p
    | some c => (p.1.enterTriggered x.tick c, p.2)
  placeNext p (stageMarker x.tick taken)

/-- The records of a sample reach the Streamer (R101, R124, R125). -/
def State.streamRecords (s : State) (streams : Fin 4 → Bool) (records : List DecodeRecord) : State :=
  let q := Streamer.receiveAll streams s.time.elapsed records s.streamer
  let s' := s.withStreamer q.1
  if q.2 then s'.withNotices NoticeSet.setDecodeLoss else s'

/-- The raises and restarts of a taken branch (R74, R91). -/
def State.branchActions (s : State) (tick : Nat) (taken : Option Taken) : State :=
  match taken with
  | none => s
  | some t =>
    (s.withLink (s.link.raiseFlags t.branch.raises tick s.time.elapsed)).withCounters (s.counters.restart t.branch.restarts tick)

/-- Each sample after the trigger sample lowers the countdown by 1 (R47). -/
def CaptureControl.countSample (c : CaptureControl) : CaptureControl :=
  if c.state = .triggered then { c with countdown := c.countdown - 1 } else c

/-- After a sample the capture ends if a record was refused (R26) or the depth is complete (R47). -/
def State.settleDepth (s : State) (allPlaced : Bool) : State :=
  if !allPlaced then s.endCapture .storeLimit
  else if s.capture.state = .triggered ∧ s.capture.countdown = 0 then s.endCapture .depth
  else s

/-- The Sampler takes a sample now and hands it to every consumer (R7, R21, R71, R83). `afterMiss` tells that an edge was
missed before the taken edge of this sample. -/
def State.takeSample (s : State) (afterMiss : Bool) : State :=
  let x := s.readSample
  let counters := s.counters.handleSample x
  let records := s.decoders.completed x
  let r := s.seq.evaluate ⟨x, records, counters.events, s.store.placedFlags⟩
  let cause := s.triggerCause r.2
  let run := s.sampler.formRun x cause.isSome
  let copies := s.decoders.copies x.tick records
  let streams := fun i => (s.decoders.slots.get i).stream
  let s1 := ((s.withCounters counters.clearEvents).withDecoders (s.decoders.handleSample x)).withSeq r.1
  let s2 := (s1.withSampler (s1.sampler.afterSample x run.2)).withCapture s1.capture.countSample
  let w := s2.writeSample x afterMiss run.1 copies cause r.2
  let s3 := w.1.withStore { w.1.store with placement := [] }
  ((s3.streamRecords streams records).branchActions x.tick r.2).settleDepth w.2

end Sys2Proof.Machine
end

