-- ==== Sys2Proof/Machine/Operands.lean ====
section
/-! DEFINITION. The parameters of every order, read from its bytes (R170): `none` where the order's rule answers RANGE. -/

namespace Sys2Proof.Machine

/-! ## Fields -/

/-- Payload byte `n` of an order; parameters begin at byte 2 (R170). -/
def paramByte (o : OrderPost) (n : Nat) : Byte := o.params.getD (n - 2) 0

/-- Payload byte `n` as a number. -/
def paramNat (o : OrderPost) (n : Nat) : Nat := (paramByte o n).toNat

/-- `w` payload bytes from byte `n` on, most significant first (R170). -/
def paramField (o : OrderPost) (n w : Nat) : Nat := beNat ((o.params.drop (n - 2)).take w)

/-- Two payload bytes as a set of channels or a 16-level value (R170). -/
def paramWord (o : OrderPost) (n : Nat) : BitVec 16 := BitVec.ofNat 16 (paramField o n 2)

/-- A count carried in 16 bits where 0 means 65,536 (R5, R59). -/
def paramCount (o : OrderPost) (n : Nat) : Nat := if paramField o n 2 = 0 then 65536 else paramField o n 2

/-- A channel number, refused above 15 (R170). -/
def channelOf (n : Nat) : Option Channel := if h : n < 16 then some ⟨n, h⟩ else none

/-- A counter or slot number, refused above 3. -/
def quadIndexOf (n : Nat) : Option (Fin 4) := if h : n < 4 then some ⟨n, h⟩ else none

/-- A level code: LOW 0, HIGH 1 (R170). A bit order and an on-or-off byte are coded alike. -/
def levelOf (n : Nat) : Option Bool :=
  match n with
  | 0 => some false
  | 1 => some true
  | _ => none

/-- A byte with a presence bit 7 and a channel in bits 4-0; bits 6-5 are unnamed (R170). That a channel above 15 is refused with
the presence bit clear too is log 18's. -/
def optionalChannelOf (b : Byte) : Option (Option Channel) :=
  if bitsOf b 5 2 ≠ 0 then none
  else (channelOf (bitsOf b 0 5)).map (fun ch => if bitsOf b 7 1 = 1 then some ch else none)

/-! ## CONFIGURE_CHANNELS -/

/-- A threshold as applied: -240 to 240 (R3). -/
def clampThreshold (t : Int) : Int := max (-240) (min 240 t)

/-- The threshold an order carries for a group (R170). -/
def orderThreshold (o : OrderPost) (g : Fin 4) : Int := signedOf 2 (paramField o (7 + 2 * g.val) 2)

/-- The order names the group (R170). -/
def namesGroup (o : OrderPost) (g : Fin 4) : Bool := (paramByte o 6).getLsbD g.val

/-- Bits 7-4 of the group set are zero (R3). -/
def groupSetFits (o : OrderPost) : Bool := bitsOf (paramByte o 6) 4 4 == 0

/-- Some named group's threshold is applied at a limit (R3). -/
def thresholdsClamped (o : OrderPost) : Bool :=
  ([0, 1, 2, 3] : List (Fin 4)).any (fun g => namesGroup o g && clampThreshold (orderThreshold o g) != orderThreshold o g)

/-! ## SET_SAMPLING -/

/-- Sampling mode codes (R170). -/
def sampleModeOf (n : Nat) : Option SampleMode :=
  match n with
  | 0 => some .timing
  | 1 => some .state
  | _ => none

/-- Clock type codes (R170). -/
def clockTypeOf (n : Nat) : Option ClockType :=
  match n with
  | 0 => some .edge
  | 1 => some .hold
  | 2 => some .delayed
  | _ => none

/-- Td multiplier codes (R170). -/
def multiplierOf (n : Nat) : Option Nat :=
  match n with
  | 0 => some 1
  | 1 => some 10
  | 2 => some 100
  | 3 => some 1000
  | _ => none

/-- The factor as applied with a clock type: at least 2 for HOLD (R5). -/
def appliedFactor (t : ClockType) (factor : Nat) : Nat := if t = .hold then max 2 factor else factor

/-- The settings a SET_SAMPLING gives (R5). -/
def samplingOf (o : OrderPost) : Option SamplerSettings := do
  let mode ← sampleModeOf (paramNat o 2)
  let clock ← channelOf (paramNat o 5)
  let edge ← edgeOfCode (paramNat o 6)
  let q := paramByte o 7
  let qualifier ← if bitsOf q 5 1 = 0 then channelOf (bitsOf q 0 5) else none
  let present := bitsOf q 7 1 == 1
  let clockType ← clockTypeOf (paramNat o 8)
  let factor ← if paramNat o 9 ≤ 15 then some (paramNat o 9) else none
  let multiplier ← multiplierOf (paramNat o 10)
  if present && qualifier == clock then none
  else
    some
      { mode := mode, divisor := paramCount o 3, clockChannel := clock, clockEdge := edge,
        qualifier := if present then some qualifier else none,
        qualifyingLevel := bitsOf q 6 1 == 1, clockType := clockType,
        tdFactor := appliedFactor clockType factor, tdMultiplier := multiplier }

/-- HOLD with factor 0 or 1 is applied with 2 and answered CLAMPED (R5). -/
def samplingClamped (o : OrderPost) : Bool := paramNat o 8 == 1 && decide (paramNat o 9 < 2)

/-! ## SET_COUNTER -/

/-- Counter mode codes (R170). -/
def counterModeOf (n : Nat) : Option CounterMode :=
  match n with
  | 0 => some .off
  | 1 => some .count
  | 2 => some .period
  | 3 => some .gated
  | 4 => some .cascade
  | _ => none

/-- Counter source codes (R170). -/
def counterSourceOf (n : Nat) : Option CounterSource :=
  match n with
  | 0 => some .sample
  | 1 => some .tick1
  | 2 => some .tick16
  | 3 => some .tick256
  | 4 => some .tick4096
  | 5 => some .edge
  | _ => none

/-- Event select codes (R170). -/
def eventKindOf (n : Nat) : Option EventKind :=
  match n with
  | 0 => some .expiry
  | 1 => some .capture
  | 2 => some .overflow
  | _ => none

/-- What a SET_COUNTER sets (R59). -/
structure CounterOrder where
  k : Fin 4
  settings : CounterSettings
  cascade : Bool
  deriving DecidableEq, Repr

/-- The settings a SET_COUNTER gives (R59). -/
def counterOf (o : OrderPost) : Option CounterOrder := do
  let k ← quadIndexOf (paramNat o 2)
  let mode ← counterModeOf (paramNat o 3)
  let source ← counterSourceOf (paramNat o 4)
  let sourceChannel ← channelOf (paramNat o 5)
  let sourceEdge ← edgeOfCode (paramNat o 6)
  let periodChannel ← channelOf (paramNat o 7)
  let periodEdge ← edgeOfCode (paramNat o 8)
  let b := paramByte o 11
  let oneshot ← levelOf (bitsOf b 4 2)
  let select ← eventKindOf (bitsOf b 0 2)
  let cascade := bitsOf b 7 1 == 1
  if bitsOf b 6 1 ≠ 0 ∨ bitsOf b 2 2 ≠ 0 then none
  else if isLow k ∧ mode = .cascade then none
  else if !isLow k && cascade then none
  else some ⟨k, ⟨mode, source, sourceChannel, sourceEdge, periodChannel, periodEdge, paramCount o 9, oneshot, select⟩, cascade⟩

/-! ## SET_DECODER -/

/-- How many parameter bytes a SET_DECODER of a kind has (R171); `none` for a kind not listed. -/
def decoderLength (kind : Nat) : Option Nat :=
  match kind with
  | 0 => some 3
  | 1 => some 12
  | 2 => some 10
  | 3 => some 16
  | _ => none

/-- Parity codes (R170). -/
def parityOf (n : Nat) : Option Parity :=
  match n with
  | 0 => some .none
  | 1 => some .even
  | 2 => some .odd
  | 3 => some .mark
  | 4 => some .space
  | _ => none

/-- Stop bit codes (R170). -/
def stopBitsOf (n : Nat) : Option StopBits :=
  match n with
  | 0 => some .one
  | 1 => some .oneAndHalf
  | 2 => some .two
  | _ => none

/-- Handshake codes (R170). -/
def handshakeOf (n : Nat) : Option Handshake :=
  match n with
  | 0 => some .leading
  | 1 => some .trailing
  | 2 => some .pulse
  | 3 => some .interlocked
  | _ => none

/-- A number inside its range, or RANGE. -/
def within (lo hi n : Nat) : Option Nat := if lo ≤ n ∧ n ≤ hi then some n else none

/-- ASYNC settings (R103, R104). -/
def asyncOf (o : OrderPost) : Option AsyncSettings := do
  let data ← channelOf (paramNat o 5)
  let idle ← levelOf (paramNat o 6)
  let bits ← within 5 9 (paramNat o 7)
  let parity ← parityOf (paramNat o 8)
  let stop ← stopBitsOf (paramNat o 9)
  let order ← levelOf (paramNat o 10)
  let period ← within 64 1048575 (paramField o 11 3)
  some ⟨data, idle, bits, parity, stop, order, period⟩

/-- CLOCKED settings (R103, R110). -/
def clockedOf (o : OrderPost) : Option ClockedSettings := do
  let clock ← channelOf (paramNat o 5)
  let falling ← levelOf (paramNat o 6)
  let data ← channelOf (paramNat o 7)
  let select ← optionalChannelOf (paramByte o 8)
  let active ← levelOf (paramNat o 9)
  let wordLength ← within 4 16 (paramNat o 10)
  let order ← levelOf (paramNat o 11)
  if data = clock ∨ select = some clock ∨ select = some data then none
  else some ⟨clock, !falling, data, select.map (fun ch => ⟨ch, active⟩), wordLength, order⟩

/-- A channel lies in the data range of a base and a width (R103). -/
def inRange (base : Channel) (width : Nat) (ch : Channel) : Bool :=
  decide (base.val ≤ ch.val ∧ ch.val < base.val + width)

/-- STROBED settings (R103, R113). R103 names no cause for a run prefixing byte above 1, which is neither of R170's on and off
codes: that it is refused with RANGE is the model's choice (log 18). -/
def strobedOf (o : OrderPost) : Option StrobedSettings := do
  let base ← channelOf (paramNat o 5)
  let width ← within 1 8 (paramNat o 6)
  let strobe ← channelOf (paramNat o 7)
  let active ← levelOf (paramNat o 8)
  let handshake ← handshakeOf (paramNat o 9)
  let minWidth ← within 1 65535 (paramField o 10 2)
  let ack ← optionalChannelOf (paramByte o 12)
  let ackActive ← levelOf (paramNat o 13)
  let timeout := paramField o 14 2
  let selector ← optionalChannelOf (paramByte o 16)
  let runPrefixing ← levelOf (paramNat o 17)
  let clash (x : Option Channel) (others : List (Option Channel)) : Bool :=
    match x with
    | none => false
    | some ch => inRange base width ch || others.any (fun y => y == some ch)
  if 15 < base.val + width - 1 then none
  else if inRange base width strobe then none
  else if clash ack [some strobe] then none
  else if clash selector [some strobe, ack] then none
  else if handshake = .interlocked ∧ ack = none then none
  else if ack ≠ none ∧ timeout = 0 then none
  else
    some
      { base := base, width := width, strobe := ⟨strobe, active⟩, handshake := handshake, minWidth := minWidth,
        ack := ack.map (fun ch => ⟨⟨ch, ackActive⟩, timeout⟩), selector := selector, runPrefixing := runPrefixing }

/-- What a SET_DECODER sets (R102). -/
structure DecoderOrder where
  slot : Fin 4
  kind : DecoderKind
  storeCopies : Bool
  stream : Bool
  deriving DecidableEq, Repr

/-- The kind with its settings (R102, R103). -/
def decoderKindOf (o : OrderPost) : Option DecoderKind :=
  match paramNat o 3 with
  | 0 => some .off
  | 1 => (asyncOf o).map .async
  | 2 => (clockedOf o).map .clocked
  | 3 => (strobedOf o).map .strobed
  | _ => none

/-- The settings a SET_DECODER gives (R102, R103). -/
def decoderOf (o : OrderPost) : Option DecoderOrder := do
  let slot ← quadIndexOf (paramNat o 2)
  let b := paramByte o 4
  let kind ← decoderKindOf o
  if bitsOf b 2 6 ≠ 0 then none else some ⟨slot, kind, bitsOf b 0 1 == 1, bitsOf b 1 1 == 1⟩

/-! ## STANDBY -/

/-- One member of a wake set (R170); bit 5 is unnamed. -/
def wakeMemberOf (b : Byte) : Option WakeMember := do
  let edge ← edgeOfCode (bitsOf b 6 2)
  let ch ← if bitsOf b 5 1 = 0 then channelOf (bitsOf b 0 5) else none
  some ⟨ch, edge⟩

/-- The members in order; a channel named twice is refused (R52). -/
def wakeMembersOf : List Byte → Option (List WakeMember)
  | [] => some []
  | b :: rest => do
    let m ← wakeMemberOf b
    let ms ← wakeMembersOf rest
    if ms.any (fun x => x.ch == m.ch) then none else some (m :: ms)

/-- What a STANDBY sets (R52). -/
structure StandbyOrder where
  wakeArm : Bool
  members : List WakeMember
  deriving DecidableEq, Repr

/-- The wake set and action a STANDBY gives (R52). -/
def standbyOf (o : OrderPost) : Option StandbyOrder := do
  let action ← levelOf (paramNat o 2)
  let members ← wakeMembersOf (o.params.drop 2)
  some ⟨action, members⟩

/-! ## STREAM -/

/-- What a STREAM ON sets (R126). -/
structure StreamOrder where
  batch : Bool
  threshold : Nat
  timeout : Nat
  deriving DecidableEq, Repr

/-- The settings a STREAM ON gives (R126). -/
def streamOf (o : OrderPost) : Option StreamOrder := do
  let batch ← levelOf (paramNat o 3)
  let t := paramNat o 4
  if t = 1 ∨ t = 8 ∨ t = 16 ∨ t = 32 then
    if paramNat o 5 = 0 then none else some ⟨batch, t, paramNat o 5⟩
  else none

/-! ## REDUCE -/

/-- Window reference codes (R170). -/
def referenceOf (n : Nat) : Option Reference :=
  match n with
  | 0 => some .trigger
  | 1 => some .newest
  | 2 => some .epoch
  | _ => none

/-- The parameters a REDUCE gives (R137). -/
def reduceOf (o : OrderPost) : Option ReduceParams := do
  let reference ← referenceOf (paramNat o 2)
  let offset := signedOf 6 (paramField o 3 6)
  let span ← within 1 (2 ^ 40) (paramField o 9 6)
  let columns ← within 1 1024 (paramField o 15 2)
  let channels := paramWord o 17
  if offset = -(2 ^ 47) ∨ channels = 0 ∨ bitsOf (paramByte o 19) 4 4 ≠ 0 then none
  else
    some
      { reference := reference, offset := offset, span := span, columns := columns, channels := channels,
        slots := BitVec.ofNat 4 (paramNat o 19), repeatCode := paramNat o 20 }

/-! ## READ_RECORDS and SEARCH -/

/-- A start selection (R33). -/
inductive Selection where
  | atSeq (seq : Nat) | oldest | newest | trigger | same | next | previous
  deriving DecidableEq, Repr

/-- The start selection a READ_RECORDS gives (R33, R170). -/
def selectionOf (o : OrderPost) : Option Selection :=
  match paramNat o 2 with
  | 0 => some (.atSeq (paramField o 3 6))
  | 1 => some .oldest
  | 2 => some .newest
  | 3 => some .trigger
  | 4 => some .same
  | 5 => some .next
  | 6 => some .previous
  | _ => none

/-- Marker kind codes of a SEARCH (R170). -/
def markerKindOf (n : Nat) : Option MarkerKind :=
  match n with
  | 0 => some .trigger
  | 1 => some .stage
  | 2 => some .signalIn
  | 3 => some .stateOverrun
  | _ => none

/-- Direction codes (R170). -/
def directionOf (n : Nat) : Option Direction :=
  match n with
  | 0 => some .forward
  | 1 => some .backward
  | _ => none

/-- The criterion a SEARCH gives; only the bytes it reads are judged (R37, R171, log 18). -/
def criterionOf (o : OrderPost) : Option Criterion :=
  match paramNat o 3 with
  | 0 => some (.runPattern (paramWord o 6) (paramWord o 8))
  | 1 => do
    let slot ← quadIndexOf (paramNat o 4)
    let kind ← recKindOfCode (paramNat o 5)
    some (.decodeWord slot kind (paramWord o 6) (paramWord o 8))
  | 2 => (markerKindOf (paramNat o 5)).map .marker
  | _ => none

end Sys2Proof.Machine
end

