-- ==== Sys2Proof/Machine/Layout.lean ====
section
/-! DEFINITION. The byte layouts of everything the node sends but QUERY results (R170). -/

namespace Sys2Proof.Machine

/-- Status codes (R174). -/
def Status.code : Status → Byte
  | .ok => 0
  | .clamped => 1
  | .state => 2
  | .busy => 3
  | .range => 4
  | .conflict => 5
  | .sequence => 6
  | .check => 7
  | .unknown => 8
  | .length => 9

/-- Capture state codes (R170). -/
def CapState.code : CapState → Byte
  | .idle => 0
  | .armed => 1
  | .triggered => 2
  | .done => 3
  | .standby => 4

/-- Completion reason codes (R170, R176). -/
def Reason.code : Reason → Byte
  | .none => 0
  | .depth => 1
  | .storeLimit => 2
  | .noTrigger => 3
  | .aborted => 4
  | .timeLimit => 5

/-- Decode record kind codes (R170). -/
def RecKind.code : RecKind → Nat
  | .data => 0
  | .command => 1
  | .brk => 2

/-- A branch's bit (R170). -/
def BranchId.code : BranchId → Nat
  | .primary => 0
  | .alternate => 1

/-- The cause byte of a TRIGGER record (R170). -/
def Cause.code : Cause → Byte
  | .forced => 0x80
  | .stage st b => byteOf (b.code * 8 + st.val)

/-- The error bits of a decode record's byte 2 (R170). -/
def DecodeErrors.code (e : DecodeErrors) : Nat :=
  16 * e.parity.toNat + 8 * e.framing.toNat + 4 * e.short.toNat + 2 * e.runt.toNat + e.stall.toNat

/-- Byte 0 of a decode record (R170). -/
def DecodeRecord.byte0 (r : DecodeRecord) : Byte := byteOf (r.slot.val * 64 + r.kind.code * 16 + (r.bits - 1))

/-- Byte 1 of a decode record (R170). -/
def DecodeRecord.byte1 (r : DecodeRecord) : Byte :=
  match r.runCount with
  | none => 0
  | some n => byteOf (128 + (n - 1))

/-- A decode record in a STREAM post, 16 bytes (R170). -/
def QueuedRecord.bytes (q : QueuedRecord) : List Byte :=
  [q.body.byte0, q.body.byte1, byteOf q.body.errors.code, byteOf q.lostBefore]
    ++ beBytes 2 q.body.value.toNat ++ beBytes 6 q.body.start ++ beBytes 4 q.body.duration

/-- A store record in a RECORDS post, 15 bytes (R170). -/
def Record.bytes : Record → List Byte
  | .run r =>
    match r.lastTick with
    | none =>
      [0x00] ++ beBytes 2 r.value.toNat ++ beBytes 2 r.mask.toNat ++ beBytes 6 r.start ++ beBytes 2 r.length
        ++ [0, 0]
    | some last =>
      [0x10] ++ beBytes 2 r.value.toNat ++ beBytes 6 r.start ++ beBytes 2 r.length
        ++ beBytes 4 (min (2 ^ 32 - 1) (last - r.start))
  | .trigger tick cause => [0x20] ++ beBytes 6 tick ++ [cause.code] ++ List.replicate 7 0
  | .stage tick f t b =>
    [0x40] ++ beBytes 6 tick ++ [byteOf f.val, byteOf t.val, byteOf b.code] ++ List.replicate 5 0
  | .signalIn tick receipt sender flags origin =>
    [byteOf (0x60 + sender.val)] ++ beBytes 6 receipt ++ beBytes 6 origin
      ++ [flags, byteOf (min 255 (tick - receipt))]
  | .stateOverrun tick missed => [0x80] ++ beBytes 6 tick ++ beBytes 2 missed ++ List.replicate 6 0
  | .decode r _ =>
    [byteOf (0xA0 + r.errors.code), r.byte0, r.byte1] ++ beBytes 2 r.value.toNat ++ beBytes 6 r.start
      ++ beBytes 4 r.duration

/-- A RECORDS payload (R170). -/
def RecordsPost.payload (p : RecordsPost) : List Byte :=
  [byteOf (p.atEnd.toNat + 2 * p.overwritten.toNat + 4 * p.discarded.toNat + 8 * p.notFound.toNat),
    byteOf p.records.length]
    ++ beBytes 6 p.firstSeq ++ p.records.flatMap Record.bytes

/-- A SIGNAL payload (R170). -/
def SignalPart.payload (p : SignalPart) : List Byte := p.flags :: beBytes 6 (p.origin.getD 0)

/-- An ANSWER payload (R170). -/
def Answer.payload (a : Answer) : List Byte := [a.code, a.tag, a.status.code, byteOf a.index] ++ a.result

/-- End reason codes (R170). -/
def EndReason.code : EndReason → Nat
  | .complete => 0
  | .overtaken => 1
  | .cancelled => 2
  | .superseded => 3
  | .discarded => 4

/-- A COLUMNS payload (R170). -/
def ColumnsPost.payload (p : ColumnsPost) : List Byte :=
  [byteOf p.pass] ++ beSigned 7 p.window ++ beBytes 2 p.first
    ++ [byteOf p.count, match p.last with | none => 0 | some r => byteOf (128 + r.code)] ++ p.cells

/-- The fault fields of the FAULT notice and of READ_FAULT (R170, R181): fault kind 0 and zeros when EMPTY. -/
def faultFields (r : Option FaultRecord) : List Byte :=
  match r with
  | none => List.replicate 10 0
  | some f => [1] ++ beBytes 6 f.tick ++ [byteOf f.postClass, f.capture.code, byteOf f.further]

/-- Wake result codes (R170). -/
def WakeResult.code : WakeResult → Byte
  | .none => 0
  | .armed => 1
  | .armFailed => 2

/-- A NOTICE payload for a kind, with composition-time details read now (R170, R177, R178). -/
def State.noticePayload (s : State) (k : NoticeKind) : List Byte :=
  byteOf k.code ::
    match k with
    | .present =>
      [byteOf s.link.station.val] ++ beBytes 2 Config.familyCode
        ++ [byteOf Config.revision, byteOf s.link.rate.toNat]
    | .fault => faultFields s.orders.fault
    | .triggered =>
      match s.orders.notices.triggered with
      | none => []
      | some d => beBytes 6 d.tick ++ beBytes 6 d.sequence ++ [d.cause.code]
    | .done => [(s.orders.notices.done.getD .none).code]
    | .loadTimeout =>
      match s.orders.notices.loadTimeout with
      | none => []
      | some d => [byteOf d.owner.val, byteOf d.total, byteOf d.received]
    | .decodeLoss => s.streamer.losses.toList.flatMap (beBytes 2)
    | .stateOverrun => []
    | .epochSkipped =>
      match s.orders.notices.epochSkipped with
      | none => []
      | some d => [byteOf d.sender.val] ++ beBytes 6 d.t0 ++ beBytes 6 d.receipt
    | .activity =>
      match s.orders.notices.activity with
      | none => []
      | some d =>
        [byteOf d.ch.val, if d.rising then 0 else 1] ++ beBytes 6 d.tick ++ [d.result.code, byteOf d.cause]

end Sys2Proof.Machine
end

