-- ==== Sys2Proof/Machine/QueryLayout.lean ====
section
/-! DEFINITION. The result of a QUERY: the common part and the eight parts a code names (R175, R176). -/

namespace Sys2Proof.Machine

/-- Sampling mode codes (R170). -/
def SampleMode.code : SampleMode → Byte
  | .timing => 0
  | .state => 1

/-- Counter mode codes (R170). -/
def CounterMode.code : CounterMode → Byte
  | .off => 0
  | .count => 1
  | .period => 2
  | .gated => 3
  | .cascade => 4

/-- Decoder kind codes (R170). -/
def DecoderKind.code : DecoderKind → Byte
  | .off => 0
  | .async _ => 1
  | .clocked _ => 2
  | .strobed _ => 3

/-- Decoder phase codes (R176). -/
def Phase.code : Phase → Byte
  | .stopped => 0
  | .hunting => 1
  | .inWord _ => 2
  | .recovering => 3

/-- Reduction phase codes (R176). -/
def ReducePhase.code : ReducePhase → Byte
  | .starting => 1
  | .passing => 2
  | .closing => 3
  | .waiting _ => 4

/-- Readout job codes (R176). -/
def Readout.code : Readout → Byte
  | .free => 0
  | .building _ => 1
  | .walking _ => 2
  | .holding _ => 3

/-- Link state codes (R176); a QUERY is not received in JOINING (R169). -/
def LinkState.code : LinkState → Byte
  | .joining | .running => 0
  | .linkFault => 1

/-- One byte that may be absent (R176). -/
def byteOption (n : Option Nat) : List Byte := beOption 1 n

/-- The common part (R176, bytes 4 to 19). -/
def State.queryCommon (s : State) (code : Byte) : List Byte :=
  [code, s.capture.state.code, s.capture.reason.code] ++ beBytes 6 s.tick ++ beBytes 2 s.pfe.rawLevels.toNat
    ++ beBytes 2 s.pfe.activity.toNat ++ beBytes 2 s.orders.notices.bits ++ [s.link.state.code]

/-- CAPTURE (R58, R6, R14). The ticks left of a stopped arm-limit timer are absent, all ones (log 16). -/
def State.queryCapture (s : State) : List Byte :=
  beBytes 4 s.capture.postDepth ++ beBytes 4 s.capture.countdown ++ beBytes 2 s.capture.armLimit
    ++ beOption 6 (s.capture.armTimer.map (· - s.tick))
    ++ [flagByte s.capture.forcePending, stationByte s.orders.reportStation]
    ++ s.sampler.settings.mode.code :: beBytes 2 (s.sampler.settings.divisor - 1)
    ++ s.sampler.record.mode.code :: beBytes 2 (s.sampler.record.divisor - 1) ++ beBytes 2 s.sampler.missed

/-- STORE (R31). -/
def State.queryStore (s : State) : List Byte :=
  let st := s.store
  let held := decide (st.records ≠ [])
  beBytes 3 st.records.length ++ beOption 6 (if held then some st.oldest else none)
    ++ beOption 6 (if held then some (st.nextSeq - 1) else none)
    ++ beOption 6 (st.trigger.map TriggerPosition.sequence) ++ beOption 3 (st.trigger.map TriggerPosition.n0)
    ++ beBytes 2 st.floor ++ beOption 6 st.lastRef ++ [s.readout.code]

/-- One counter (R76). -/
def Counter.query (c : Counter) : List Byte :=
  [c.settings.mode.code] ++ beBytes 2 c.value ++ beBytes 2 c.latch
    ++ [byteOf (c.expired.toNat + 2 * c.overflow.toNat + 4 * c.latchMark.toNat + 8 * c.gateOpen.toNat)]

/-- COUNTERS (R76). -/
def State.queryCounters (s : State) : List Byte :=
  s.counters.k.toList.flatMap Counter.query
    ++ [byteOf (s.counters.cascade01.toNat + 2 * s.counters.cascade23.toNat)]

/-- SEQUENCER (R98). A current stage without an ALTERNATE has no ALTERNATE count (log 16). -/
def State.querySequencer (s : State) : List Byte :=
  let q := s.seq
  let alt := match q.currentStage with
    | none => false
    | some st => st.alternate.isSome
  [byteOf q.stage.val] ++ beBytes 3 q.primaryCount ++ beOption 3 (if alt then some q.alternateCount else none)
    ++ [q.heard, byteOf q.program.length, flagByte q.isDefault, flagByte q.load.isSome,
        stationByte (q.load.map Load.owner)]
    ++ byteOption (q.load.map Load.total) ++ byteOption (q.load.map Load.stages)
    ++ byteOption (q.load.map (fun l => l.staged.length))

/-- Next bit position, bits held or pending repeat of a slot (R121, log 16). -/
def Slot.progress (d : Slot) : Option Nat :=
  match d.kind with
  | .off => none
  | .async _ =>
    match d.phase with
    | .inWord (.async _ _ next _) => some next
    | _ => none
  | .clocked _ =>
    match d.phase with
    | .inWord (.clocked _ held) => some held.length
    | _ => some 0
  | .strobed _ => d.pendingRun

/-- The tick of s0, or the word's start tick (R121). -/
def Slot.startTick (d : Slot) : Option Nat :=
  match d.phase with
  | .inWord (.async _ t _ _) | .inWord (.clocked t _) | .inWord (.strobed t _ _) => some t
  | .stopped | .hunting | .recovering => none

/-- One slot (R121). -/
def Slot.query (d : Slot) : List Byte :=
  [d.kind.code, byteOf (d.storeCopies.toNat + 2 * d.stream.toNat + 4 * d.idleSeen.toNat), d.phase.code]
    ++ byteOption d.progress ++ beOption 6 d.startTick

/-- DECODERS (R121). -/
def State.queryDecoders (s : State) : List Byte := s.decoders.slots.toList.flatMap Slot.query

/-- A time in steps (R134, R153): exact, or the step below or above, as the free value says (log 15). -/
def stepsOf (ticks step : Nat) (up : Bool) : Nat := ticks / step + (up && decide (ticks % step ≠ 0)).toNat

/-- STREAM (R134). The oldest age of an empty queue is absent, all ones (log 16). -/
def State.queryStream (s : State) : List Byte :=
  let st := s.streamer
  let age := (st.oldestAge s.time.elapsed).map
    (fun a => min 255 (stepsOf a Config.ticksPerBatchStep (Config.freeRoundsUp s.freeDraws)))
  [flagByte st.on, stationByte st.dest, flagByte st.batch, byteOf st.threshold, byteOf st.timeout,
      byteOf st.queue.length]
    ++ byteOption age ++ st.losses.toList.flatMap (beBytes 2)

/-- The time left on a repeat timer in steps of 10 ms (R153); absent outside WAITING (log 16). -/
def State.repeatLeft (s : State) (p : ReducePhase) : Option Nat :=
  match p with
  | .waiting expiry =>
    some (stepsOf (expiry - s.time.elapsed) Config.ticksPerRepeatStep (Config.freeRoundsUp s.freeDraws))
  | .starting | .passing | .closing => none

/-- REDUCTION (R153); the fields of a FREE engine are absent, all ones (log 16). -/
def State.queryReduction (s : State) : List Byte :=
  (match s.columns.current with
    | none => [0, stationByte none] ++ absentBytes 24 ++ beBytes 2 s.columns.nextColumn ++ absentBytes 1
    | some r =>
      [r.phase.code, byteOf r.owner.val, byteOf r.pass] ++ beBytes 2 r.params.width ++ [byteOf r.params.cells]
        ++ beSigned 7 r.snapshot.window ++ beBytes 6 r.snapshot.horizon ++ beOption 6 r.snapshot.floor
        ++ [flagByte r.snapshot.live] ++ beBytes 2 s.columns.nextColumn ++ byteOption (s.repeatLeft r.phase))
    ++ [byteOf s.columns.outgoing.length]

/-- LINK (R169). -/
def State.queryLink (s : State) : List Byte :=
  let l := s.link
  [byteOf l.strapReading.toNat, byteOf l.station.val, byteOf l.rate.toNat, byteOf l.collisions, flagByte l.retryWait,
      l.pendingPart.flags]
    ++ beOption 6 l.pendingPart.origin

/-- The part that a code names (R176). -/
def State.queryPart (s : State) (code : Nat) : List Byte :=
  match code with
  | 0 => s.queryCapture
  | 1 => s.queryStore
  | 2 => s.queryCounters
  | 3 => s.querySequencer
  | 4 => s.queryDecoders
  | 5 => s.queryStream
  | 6 => s.queryReduction
  | _ => s.queryLink

/-- The whole result of a QUERY (R175, R176). -/
def State.queryResult (s : State) (code : Byte) : List Byte := s.queryCommon code ++ s.queryPart code.toNat

/-- A free value was drawn by the parts that round a time (log 32). -/
def State.drawForQuery (s : State) (code : Byte) : State :=
  if code = 5 ∨ code = 6 then s.withFreeDraws (s.freeDraws + 1) else s

end Sys2Proof.Machine
end

