-- ==== Sys2Proof/Machine/OrderOps.lean ====
section
/-! DEFINITION. Taking an order: the return from standby, the answer list, the length and the verdict (R54, R171 to R174). -/

namespace Sys2Proof.Machine

/-- The verdict on an order, with the state it leaves (R174). -/
structure Judged where
  state : State
  status : Status
  index : Nat := 0
  result : List Byte := []
  /-- A READ_RECORDS that starts building when its answer has been sent (R34). -/
  startsRead : Bool := false
  deriving DecidableEq, Repr

/-- A refusal changes nothing (R174). -/
def State.refuse (s : State) (why : Status) : Judged := { state := s, status := why }

/-- Taken and carried out. -/
def State.ok (s : State) : Judged := { state := s, status := .ok }

/-- Taken, with a value applied at the nearest limit where `clamped` says so. -/
def State.okOrClamped (s : State) (clamped : Bool) : Judged :=
  { state := s, status := if clamped then .clamped else .ok }

/-- The node receives posts: not while the reset pin is held (R183), nor in JOINING (R155). -/
def State.receives (s : State) : Bool := !s.resetHeld && s.link.state != .joining

/-- A post was heard on the line, so the line is not idle (R154). -/
def State.hearPost (s : State) : State := s.withLink { s.link with idleSince := none }

/-- The return from standby (R54, R55). -/
def CaptureControl.leaveStandby (c : CaptureControl) : CaptureControl :=
  if c.state = .standby then { c with state := c.returnState.getD .idle, returnState := none } else c

/-- The return from standby that every order brings (R54). -/
def State.leaveStandby (s : State) : State := s.withCapture s.capture.leaveStandby

/-- The answer list holds four answers (R172). -/
def State.answersFull (s : State) : Bool := decide (Config.answerCapacity ≤ s.orders.answers.length)

/-- The answer that a verdict gives (R172). -/
def Judged.answer (j : Judged) (code : Byte) (dest : Station) (tag : Byte) : Answer :=
  ⟨dest, code, tag, j.status, j.index, j.result, j.startsRead⟩

/-- An answer joins the list (R172). -/
def State.addAnswer (s : State) (a : Answer) : State :=
  s.withOrders { s.orders with answers := s.orders.answers ++ [a] }

/-- The verdict is answered when the order named the node alone, and discarded when it named all stations (R173). -/
def Judged.settle (j : Judged) (code : Byte) (o : OrderPost) : State :=
  if o.toAll then j.state else j.state.addAnswer (j.answer code o.sender o.tag)

/-- An order delivered to a node out of standby: steps 2, 4 and 5 of R171. `fits` is the verdict of step 4. -/
def State.dispatchOrder (s : State) (code : Byte) (o : OrderPost) (fits : Bool) (judge : State → Judged) : State :=
  if !o.toAll && s.answersFull then s
  else (if fits then judge s else s.refuse .length).settle code o

/-- An ORDER post for the node ends on the line (R54, R155, R171). -/
def State.takeOrder (s : State) (code : Byte) (o : OrderPost) (fits : Bool) (judge : State → Judged) : State :=
  if s.receives then s.hearPost.leaveStandby.dispatchOrder code o fits judge else s

end Sys2Proof.Machine
end

