-- ==== Sys2Proof/Machine/CaptureOrders.lean ====
section
/-! DEFINITION. The orders that move the capture state: ARM, FORCE_TRIGGER, ABORT, RELEASE, STANDBY (R41 to R57). -/

namespace Sys2Proof.Machine

/-! ## ARM -/

/-- The report station becomes the sender of a taken ARM (R43, R179). -/
def State.setReportStation (s : State) (who : Station) : State :=
  s.withOrders { s.orders with reportStation := some who }

/-- The judging of ARM (R41): the state, the load, then the six checks. -/
def judgeArm (o : OrderPost) (s : State) : Judged :=
  if s.capturing then s.refuse .state
  else if s.seq.load.isSome then s.refuse .busy
  else
    match s.armConflict with
    | some i => { state := s, status := .conflict, index := i }
    | none => (s.armEffects.setReportStation o.sender).ok

/-- ARM (R41 to R43). -/
def execArm (o : OrderPost) (s : State) : Host.Outcome State Fault Refusal :=
  .next (s.takeOrder 0x08 o (o.params.length == 0) (judgeArm o))

/-! ## FORCE_TRIGGER -/

/-- The judging of FORCE_TRIGGER (R46). -/
def judgeForceTrigger (s : State) : Judged :=
  if s.capture.state = .armed then (s.withCapture { s.capture with forcePending := true }).ok else s.refuse .state

/-- FORCE_TRIGGER (R46). -/
def execForceTrigger (o : OrderPost) (s : State) : Host.Outcome State Fault Refusal :=
  .next (s.takeOrder 0x09 o (o.params.length == 0) judgeForceTrigger)

/-! ## ABORT -/

/-- The judging of ABORT (R49): the capture end, then the discard of the decode queue. -/
def judgeAbort (s : State) : Judged :=
  if s.capturing then (s.endCapture .aborted).discardQueue.ok else s.refuse .state

/-- ABORT (R49). -/
def execAbort (o : OrderPost) (s : State) : Host.Outcome State Fault Refusal :=
  .next (s.takeOrder 0x0A o (o.params.length == 0) judgeAbort)

/-! ## RELEASE -/

/-- The judging of RELEASE (R51). -/
def judgeRelease (s : State) : Judged :=
  if s.capture.state = .done then (s.withCapture { s.capture with state := .idle }).ok else s.refuse .state

/-- RELEASE (R51). -/
def execRelease (o : OrderPost) (s : State) : Host.Outcome State Fault Refusal :=
  .next (s.takeOrder 0x0B o (o.params.length == 0) judgeRelease)

/-! ## STANDBY -/

/-- Entry to STANDBY (R52). -/
def State.enterStandby (s : State) (x : StandbyOrder) : State :=
  (s.withCapture { s.capture with state := .standby, returnState := some s.capture.state, wakeArm := x.wakeArm }).withPfe
    { s.pfe with wakeSet := x.members }

/-- The judging of STANDBY (R52): member count, length, capture state, then members and action. -/
def judgeStandby (o : OrderPost) (s : State) : Judged :=
  if 16 < paramNat o 3 then s.refuse .range
  else if o.params.length ≠ 2 + paramNat o 3 then s.refuse .length
  else if s.capturing then s.refuse .state
  else
    match standbyOf o with
    | none => s.refuse .range
    | some x => (s.enterStandby x).ok

/-- STANDBY (R52). A payload of fewer than 4 bytes is LENGTH (R171 step 4). -/
def execStandby (o : OrderPost) (s : State) : Host.Outcome State Fault Refusal :=
  .next (s.takeOrder 0x0C o (decide (2 ≤ o.params.length)) (judgeStandby o))

end Sys2Proof.Machine
end

