-- ==== Sys2Proof/Machine/LinkOps.lean ====
section
/-! DEFINITION. The Link Controller's operations: idle and retry wait (R154, R160), the choice and composing of a post (R158), the return of a post (R159), signals and marks received (R165, R167). -/

namespace Sys2Proof.Machine

/-! ## Idle and retry wait -/

/-- Ticks in one bit time of a rate (R154). -/
def bitTicks (rate : BitVec 2) : Nat :=
  match rate.toNat with
  | 0 => 64
  | 1 => 32
  | 2 => 16
  | _ => 8

/-- The retry wait allows a start: off, or 64 bit times of idle have passed beyond the 11 (R160). -/
def LinkController.retryOver (l : LinkController) (idleSince now : Nat) : Bool :=
  !l.retryWait || decide (Config.retryBits * bitTicks l.rate ≤ now - idleSince)

/-- A bit time of the idle line begins: the bit times are counted from the moment the line became idle (R157, log 12). -/
def LinkController.bitBegins (l : LinkController) (idleSince now : Nat) : Bool :=
  decide ((now - idleSince) % bitTicks l.rate = 0)

/-- The Link Controller may start a post now (R157, R158, R160, R161). -/
def State.mayStart (s : State) : Bool :=
  !s.resetHeld && s.link.state == .running && s.link.flight.isNone
    && s.link.idleSince.any (fun t => s.link.bitBegins t s.time.elapsed && s.link.retryOver t s.time.elapsed)

/-- The elapsed time at which `n` bit times of the post in flight have passed. -/
def LinkController.bitEnd (l : LinkController) (f : Flight) (n : Nat) : Nat := f.started + n * bitTicks l.rate

/-- The last check bit of the post in flight has passed: a post ends 9 x (L + 5) bit times after its start (R185). -/
def LinkController.ended (l : LinkController) (f : Flight) (now : Nat) : Bool :=
  decide (l.bitEnd f (9 * f.bytes.length) ≤ now)

/-- A data bit of byte 0 of the post in flight is on the line, in which a mismatch is a lost arbitration (R154, R157). -/
def LinkController.inByteZero (l : LinkController) (f : Flight) (now : Nat) : Bool :=
  decide (l.bitEnd f 1 ≤ now ∧ now ≤ l.bitEnd f 9)

/-- The post in flight is in its bytes after byte 0, in whose data bits a mismatch is a collision (R154, R160). -/
def LinkController.pastByteZero (l : LinkController) (f : Flight) (now : Nat) : Bool :=
  decide (l.bitEnd f 10 ≤ now ∧ now ≤ l.bitEnd f (9 * f.bytes.length))

/-- The post in flight, where a condition on it and the elapsed time holds. -/
def State.flightWhen (s : State) (p : Flight → Nat → Bool) : Option Flight :=
  s.link.flight.filter (fun f => p f s.time.elapsed)

/-! ## The choice of a post -/

/-- The sources in order of their classes (R158). -/
def allSources : List Source := [.signal, .notice, .answer, .columns, .stream, .records]

/-- The readout unit is HOLDING a post (R158). -/
def Readout.held : Readout → Option RecordsPost
  | .holding p => some p
  | .free | .building _ | .walking _ => none

/-- The source has a ready post (R158). -/
def State.ready (s : State) : Source → Bool
  | .signal => (s.link.carriedPart s.time.elapsed).flags != 0
  | .notice => s.orders.readyNotice.isSome
  | .answer => s.orders.answers != []
  | .columns => s.columns.outgoing != []
  | .stream => s.streamer.ready
  | .records => s.readout.held.isSome

/-- The sources that hold a ready post (R158). -/
def State.readySources (s : State) : List Source := allSources.filter s.ready

/-- The source's post may start: it is ready, and was so before this instant or when the line became idle at it (R157,
log 12). -/
def State.startable (s : State) (source : Source) : Bool := s.link.offered.contains source && s.ready source

/-- The ready post of lowest class (R158). -/
def State.choice (s : State) : Option Source := allSources.find? s.startable

/-- A post is started now (R157): the station starts at the bit time, and does not let it pass. -/
def State.startDue (s : State) : Bool := s.mayStart && s.choice.isSome

/-- On an idle line an instant begins: a post that is ready may start at it (R157, log 12). -/
def State.offerReady (s : State) : State :=
  if s.link.idleSince.isSome then s.withLink { s.link with offered := s.readySources } else s

/-! ## Composing -/

/-- A post as its source composes it: destination (`none` for all stations), payload, and the state of the source in flight. -/
structure Composed where
  dest : Option Station
  payload : List Byte
  state : State
  deriving DecidableEq, Repr

/-- The post of a source at a start (R158, R164, R178, R128, R129); `none` when it has none. -/
def State.compose (s : State) : Source → Option Composed
  | .signal =>
    let l := s.link.composeSignal s.time.elapsed
    some ⟨none, l.flightPart.payload, s.withLink l⟩
  | .notice =>
    s.orders.readyNotice.map (fun k =>
      ⟨(s.orders.noticeDest k).getD none, s.noticePayload k, s.withNotices (fun n => n.fly k)⟩)
  | .answer => s.orders.answers.head?.map (fun a => ⟨some a.dest, a.payload, s⟩)
  | .columns => s.columns.outgoing.head?.map (fun p => ⟨some p.dest, p.payload, s⟩)
  | .stream =>
    let n := s.streamer.postSize
    some ⟨s.streamer.dest, (s.streamer.queue.take n).flatMap QueuedRecord.bytes,
      s.withStreamer { s.streamer with inFlight := n }⟩
  | .records => s.readout.held.map (fun p => ⟨some p.dest, p.payload, s⟩)

/-- A composed post goes into flight; the retry wait is cleared at the start (R158, R160). -/
def Composed.start (c : Composed) (source : Source) : State :=
  let l := c.state.link
  c.state.withLink
    { l with
      flight := some ⟨source, framePost source.cls l.station c.dest c.payload, c.state.time.elapsed⟩
      retryWait := false
      idleSince := none }

/-- The Link Controller starts the most urgent ready post (R157, R158). -/
def State.startPost (s : State) : State :=
  match s.choice with
  | none => s
  | some source =>
    match s.compose source with
    | none => s
    | some c => c.start source

/-! ## Endings -/

/-- The line is busy and nothing of the node's is in flight any more. -/
def LinkController.landed (l : LinkController) : LinkController := { l with flight := none, idleSince := none }

/-- The answer sent in full lets its read begin (R34, R172). -/
def Readout.answered (r : Readout) (a : Answer) : Readout :=
  match r with
  | .building j => if a.startsRead then .building { j with waitsForAnswer := false } else r
  | .free | .walking _ | .holding _ => r

/-- The answer list after its oldest answer was sent in full (R172). -/
def State.answerSent (s : State) : State :=
  match s.orders.answers with
  | [] => s
  | a :: rest => (s.withOrders { s.orders with answers := rest }).withReadout (s.readout.answered a)

/-- The readout unit after its post was sent in full (R32). -/
def Readout.sent : Readout → Readout
  | .holding _ => .free
  | .free => .free
  | .building j => .building j
  | .walking j => .walking j

/-- The STREAM post was sent in full (R130). Where several records of one sample were lost at this very instant, its places may
have been freed between two of them: how many came after is a free value (R125, log 40). -/
def State.streamSent (s : State) : State :=
  let sent := s.streamer.postSent s.time.elapsed
  let lost := (s.streamer.lostAt s.time.elapsed).length
  if lost < 2 then s.withStreamer sent
  else
    (s.withFreeDraws (s.freeDraws + 1)).withStreamer
      (sent.freedBetween s.time.elapsed (Config.freeLater s.freeDraws % lost))

/-- What a source does when its post was sent in full (R159). -/
def State.sourceSent (s : State) : Source → State
  | .signal => s.withLink s.link.signalSent
  | .notice => s.withNotices NoticeSet.sent
  | .answer => s.answerSent
  | .columns => s.columnsSent
  | .stream => s.streamSent
  | .records => s.withReadout s.readout.sent

/-- The STREAM post came back (R130, R132). -/
def State.streamReturned (s : State) : State :=
  let s' := s.withStreamer (s.streamer.postReturned s.time.elapsed)
  if s.streamer.returnRemoves then s'.withNotices NoticeSet.setDecodeLoss else s'

/-- What a source does when its post was withdrawn or abandoned (R159, R164, R178, R130). -/
def State.sourceReturned (s : State) : Source → State
  | .signal => s.withLink s.link.signalReturned
  | .notice => s.withNotices NoticeSet.returned
  | .stream => s.streamReturned
  | .answer | .columns | .records => s

/-- A collision that is not the second in a row (R160). -/
def LinkController.firstCollision (l : LinkController) : LinkController := { l with collisions := 1, retryWait := true }

/-- Entry to LINK_FAULT (R161, R180): the fault record and the FAULT notice. The count stands at the second collision
(log 27). -/
def State.enterLinkFault (s : State) (cls : Nat) : State :=
  let l := s.link
  let s := s.withLink { l with state := .linkFault, collisions := l.collisions + 1 }
  (s.withOrders
      { s.orders with fault := some (faultReport s.orders.fault s.tick cls s.capture.state) }).withNotices
    NoticeSet.setFault

/-- A collision (R160, R161). -/
def State.collide (s : State) (f : Flight) : State :=
  let s := (s.withLink s.link.landed).sourceReturned f.source
  if s.link.collisions = 0 then s.withLink s.link.firstCollision else s.enterLinkFault f.source.cls

/-! ## Signals and marks received -/

/-- A station as a marker's sender. -/
def senderOf (who : Station) : Fin 16 := ⟨who.val, by omega⟩

/-- A receipt merged into the newest entry (R22). -/
def SignalEntry.merge (e : SignalEntry) (r : SignalEntry) : SignalEntry :=
  { sender := if e.sender = r.sender then e.sender else 15
    flags := e.flags ||| r.flags
    origin := min e.origin r.origin
    receipt := r.receipt }

/-- The newest entry changed. -/
def mergeLast (r : SignalEntry) : List SignalEntry → List SignalEntry
  | [] => []
  | [e] => [e.merge r]
  | e :: e' :: rest => e :: mergeLast r (e' :: rest)

/-- A receipt joins the placement list (R22). -/
def Store.addReceipt (st : Store) (r : SignalEntry) : Store :=
  { st with
    placement :=
      if st.placement.length < Config.placementCapacity then st.placement ++ [r] else mergeLast r st.placement }

/-- A SIGNAL receipt (R165). -/
def State.receiveSignal (s : State) (sender : Station) (flags : FlagSet) (origin : Nat) : State :=
  if s.capturing && flags != 0 then
    s.withStore (s.store.addReceipt ⟨senderOf sender, flags, origin, s.tick⟩)
  else s

/-- A MARK (R167). -/
def State.receiveMark (s : State) (sender : Station) (t0 : Nat) : State :=
  if s.capturing then s.withNotices (fun n => n.setEpochSkipped ⟨sender, t0, s.tick⟩)
  else s.withTime { s.time with tick := t0 }

end Sys2Proof.Machine
end

