-- ==== Sys2Proof/Machine/LinkEvents.lean ====
section
/-! DEFINITION. The events of the Pod Link (R155 to R168) and of the reset pin (R168, R183). -/

namespace Sys2Proof.Machine

/-! ## The line -/

/-- The line has been recessive for 11 bit times; a JOINING controller enters RUNNING (R154, R155), and the posts that are ready
may start (R157). On a line that is idle already nothing else happens. -/
def State.lineIdle (s : State) : State :=
  let l := s.link
  s.withLink
    { l with
      state := if l.state = .joining then .running else l.state
      idleSince := some (l.idleSince.getD s.time.elapsed)
      offered := if l.idleSince.isSome then l.offered else s.readySources }

/-- LINE_IDLE (R155). The line is not idle while the node's own post is on it, and the node does not act on it while the reset
pin is held. -/
def execLineIdle (s : State) : Host.Outcome State Fault Refusal :=
  .next (if s.resetHeld || s.link.flight.isSome then s else s.lineIdle)

/-- POST_START (R158). -/
def execPostStart (s : State) : Host.Outcome State Fault Refusal := .next (if s.mayStart then s.startPost else s)

/-- SENT_IN_FULL (R159), once the last check bit of the post has passed (R185). -/
def execSentInFull (s : State) : Host.Outcome State Fault Refusal :=
  .next (match s.flightWhen s.link.ended with
    | none => s
    | some f => (s.withLink { s.link.landed with collisions := 0 }).sourceSent f.source)

/-- WITHDRAWN (R157, R159), while byte 0 of the post is on the line (log 39). -/
def execWithdrawn (s : State) : Host.Outcome State Fault Refusal :=
  .next (match s.flightWhen s.link.inByteZero with
    | none => s
    | some f => (s.withLink s.link.landed).sourceReturned f.source)

/-- COLLISION (R160, R161), between byte 0 and the end of the post (log 39). -/
def execCollision (s : State) : Host.Outcome State Fault Refusal :=
  .next (match s.flightWhen s.link.pastByteZero with
    | none => s
    | some f => s.collide f)

/-! ## Received posts -/

/-- SIGNAL_RECEIPT (R165). -/
def execSignalReceipt (sender : Station) (flags : FlagSet) (origin : BitVec 48) (s : State) :
    Host.Outcome State Fault Refusal :=
  .next (if s.receives then s.hearPost.receiveSignal sender flags origin.toNat else s)

/-- MARK (R167). -/
def execMark (sender : Station) (t0 : BitVec 48) (s : State) : Host.Outcome State Fault Refusal :=
  .next (if s.receives then s.hearPost.receiveMark sender t0.toNat else s)

/-! ## The reset pin -/

/-- The node while the reset pin is held low (R168, R183, log 24): every item at its reset value, the straps as latched before,
nothing in flight. -/
def State.holdReset (s : State) : State :=
  let s := s.resetNode
  (s.withOrders .reset).withResetHeld true

/-- RESET_PIN (R168). -/
def execResetPin (s : State) : Host.Outcome State Fault Refusal := .next s.holdReset

/-- The station that a strap reading latches (R154). -/
def stationOf (straps : BitVec 4) : Station := if h : straps.toNat < 15 then ⟨straps.toNat, h⟩ else 14

/-- The reset pin is released (R183): straps latched, tick 0, every item at its reset value, PRESENT pending, JOINING. -/
def State.releaseReset (s : State) (stationStraps : BitVec 4) (rateStraps : BitVec 2) : State :=
  let s := s.holdReset
  let s := (s.withTime { s.time with tick := 0 }).withResetHeld false
  s.withLink (.resetWith stationStraps (stationOf stationStraps) rateStraps)

/-- RESET_PIN_RELEASE (R183): nothing happens where the pin is not held. -/
def execResetPinRelease (stationStraps : BitVec 4) (rateStraps : BitVec 2) (s : State) :
    Host.Outcome State Fault Refusal :=
  .next (if s.resetHeld then s.releaseReset stationStraps rateStraps else s)

end Sys2Proof.Machine
end

