-- ==== Sys2Proof/Machine/LoadOrders.lean ====
section
/-! DEFINITION. The program load: LOAD_BEGIN and LOAD_PART (R92 to R97, R184). -/

namespace Sys2Proof.Machine

/-- The load state and the load gap timer. -/
def State.withLoad (s : State) (load : Option Load) (timer : Option Nat) : State :=
  (s.withSeq { s.seq with load := load }).withOrders { s.orders with loadTimer := timer }

/-- The tick of elapsed time at which a load gap timer started now expires (R94). -/
def State.loadDeadline (s : State) : Nat := s.time.elapsed + Config.loadGapTicks

/-- A load is abandoned or ends: NO_LOAD, timer stopped, active program kept (R93). -/
def State.abandonLoad (s : State) : State := s.withLoad none none

/-- The judging of LOAD_BEGIN (R92). -/
def judgeLoadBegin (o : OrderPost) (s : State) : Judged :=
  let total := paramNat o 2
  let stages := paramNat o 3
  if s.capturing then s.refuse .state
  else if total < 4 ∨ 200 < total ∨ stages < 1 ∨ 8 < stages then s.refuse .range
  else if s.seq.load.any (fun l => l.owner != o.sender) then s.refuse .busy
  else (s.withLoad (some ⟨o.sender, total, stages, []⟩) (some s.loadDeadline)).ok

/-- LOAD_BEGIN (R92). -/
def execLoadBegin (o : OrderPost) (s : State) : Host.Outcome State Fault Refusal :=
  .next (s.takeOrder 0x06 o (o.params.length == 2) (judgeLoadBegin o))

/-- The whole image has come: sum, then validation, then activation (R95, R96, R89). -/
def State.finishLoad (s : State) (l : Load) (image : List Byte) : Judged :=
  if imageSum image ≠ 0 then s.abandonLoad.refuse .check
  else
    match validateImage l.stages image with
    | .fails stage => { state := s.abandonLoad, status := .conflict, index := stage }
    | .valid program => ((s.withLoad none none).withSeq (s.seq.activate program)).ok

/-- The judging of a LOAD_PART from the owner of the load (R93, steps 3 and 4). -/
def State.loadPart (s : State) (o : OrderPost) (l : Load) : Judged :=
  let offset := paramNat o 2
  let count := paramNat o 3
  let part := o.params.drop 2
  if part.length ≠ count then s.abandonLoad.refuse .length
  else if count < 1 ∨ 120 < count ∨ l.total < l.staged.length + count then s.abandonLoad.refuse .range
  else if offset ≠ l.staged.length then s.abandonLoad.refuse .sequence
  else if l.staged.length + count < l.total then
    (s.withLoad (some { l with staged := l.staged ++ part }) (some s.loadDeadline)).ok
  else s.finishLoad l (l.staged ++ part)

/-- The judging of LOAD_PART (R93). -/
def judgeLoadPart (o : OrderPost) (s : State) : Judged :=
  match s.seq.load with
  | none => s.refuse .sequence
  | some l => if l.owner ≠ o.sender then s.refuse .busy else s.loadPart o l

/-- LOAD_PART (R93). A payload of fewer than 4 bytes is LENGTH and abandons nothing (R171 step 4). -/
def execLoadPart (o : OrderPost) (s : State) : Host.Outcome State Fault Refusal :=
  .next (s.takeOrder 0x07 o (decide (2 ≤ o.params.length)) (judgeLoadPart o))

end Sys2Proof.Machine
end

