-- ==== Sys2Proof/Machine/ReadOrders.lean ====
section
/-! DEFINITION. The orders that read: READ_RECORDS and SEARCH (R33, R37), QUERY (R175), the fault record (R181), RESET (R182), and orders that name nothing (R171). -/

namespace Sys2Proof.Machine

/-! ## READ_RECORDS -/

/-- What a start selection resolves to (R33): the first sequence, how many records it names, and the direction. -/
structure Resolved where
  first : Nat
  want : Nat
  downward : Bool
  deriving DecidableEq, Repr

/-- An upward read from a retained record (R33). -/
def Store.upward (st : Store) (seq count : Nat) : Option Resolved :=
  if st.retains seq then some ⟨seq, count, false⟩ else none

/-- The records below the last reference (R33). -/
def Store.downwardFrom (st : Store) (last count : Nat) : Option Resolved :=
  if 0 < last ∧ st.retains (last - 1) then
    let first := max (last - count) st.oldest
    some ⟨first, last - first, true⟩
  else none

/-- A start selection resolved when the order is taken (R33); `none` is RANGE. -/
def Store.resolve (st : Store) (sel : Selection) (count : Nat) : Option Resolved :=
  match sel with
  | .atSeq seq => st.upward seq count
  | .oldest => if st.records = [] then none else st.upward st.oldest count
  | .newest => if st.records = [] then none else st.upward (st.nextSeq - 1) count
  | .trigger => st.trigger.bind (fun t => st.upward t.sequence count)
  | .same => st.lastRef.bind (fun r => st.upward r count)
  | .next => st.lastRef.bind (fun r => st.upward (r + 1) count)
  | .previous => st.lastRef.bind (fun r => st.downwardFrom r count)

/-- The job of a taken READ_RECORDS (R33, R34); a broadcast one builds at once. -/
def Resolved.job (r : Resolved) (o : OrderPost) : ReadJob :=
  { dest := o.sender, firstSeq := r.first, want := r.want, count := paramNat o 9, downward := r.downward, copied := [],
    waitsForAnswer := !o.toAll }

/-- The judging of READ_RECORDS (R33): BUSY, the count, then the start selection. -/
def judgeReadRecords (o : OrderPost) (s : State) : Judged :=
  if s.readout ≠ .free then s.refuse .busy
  else if paramNat o 9 < 1 ∨ 8 < paramNat o 9 then s.refuse .range
  else
    match (selectionOf o).bind (fun sel => s.store.resolve sel (paramNat o 9)) with
    | none => s.refuse .range
    | some r => { state := s.withReadout (.building (r.job o)), status := .ok, startsRead := true }

/-- READ_RECORDS (R33). -/
def execReadRecords (o : OrderPost) (s : State) : Host.Outcome State Fault Refusal :=
  .next (s.takeOrder 0x10 o (o.params.length == 8) (judgeReadRecords o))

/-! ## SEARCH -/

/-- The judging of SEARCH (R37, R38): STATE, BUSY, RANGE. -/
def judgeSearch (o : OrderPost) (s : State) : Judged :=
  if s.capturing then s.refuse .state
  else if s.readout ≠ .free then s.refuse .busy
  else
    match directionOf (paramNat o 2), criterionOf o with
    | some d, some c => (s.beginWalk o.sender c d).ok
    | _, _ => s.refuse .range

/-- SEARCH (R37). -/
def execSearch (o : OrderPost) (s : State) : Host.Outcome State Fault Refusal :=
  .next (s.takeOrder 0x11 o (o.params.length == 8) (judgeSearch o))

/-! ## QUERY -/

/-- The judging of QUERY (R175): the result, and the activity set emptied (R4). -/
def judgeQuery (o : OrderPost) (s : State) : Judged :=
  if 7 < paramNat o 2 then s.refuse .range
  else
    { state := (s.withPfe { s.pfe with activity := 0 }).drawForQuery (paramByte o 2)
      status := .ok
      result := s.queryResult (paramByte o 2) }

/-- QUERY (R175). -/
def execQuery (o : OrderPost) (s : State) : Host.Outcome State Fault Refusal :=
  .next (s.takeOrder 0x12 o (o.params.length == 1) (judgeQuery o))

/-! ## The fault record -/

/-- The read indication of a fault record. -/
def faultRead (r : Option FaultRecord) : Bool := r.any FaultRecord.read

/-- The judging of READ_FAULT (R181): the record is the result, and it is marked read. An order to all stations, which gets no
answer (R173), marks it too (log 43). -/
def judgeReadFault (s : State) : Judged :=
  { state := s.withOrders { s.orders with fault := s.orders.fault.map (fun f => { f with read := true }) }
    status := .ok
    result := faultFields s.orders.fault ++ [flagByte (faultRead s.orders.fault)] }

/-- READ_FAULT (R181). -/
def execReadFault (o : OrderPost) (s : State) : Host.Outcome State Fault Refusal :=
  .next (s.takeOrder 0x13 o (o.params.length == 0) judgeReadFault)

/-- The judging of CLEAR_FAULT (R181). -/
def judgeClearFault (s : State) : Judged :=
  if s.orders.fault.isNone then s.ok
  else (s.withOrders { s.orders with fault := none, notices := s.orders.notices.remove .fault }).ok

/-- CLEAR_FAULT (R181). -/
def execClearFault (o : OrderPost) (s : State) : Host.Outcome State Fault Refusal :=
  .next (s.takeOrder 0x14 o (o.params.length == 0) judgeClearFault)

/-! ## RESET -/

/-- A fault record is HELD and unread (R182). -/
def faultUnread (r : Option FaultRecord) : Bool := r.any (fun f => !f.read)

/-- The node after a RESET order but for its answer (R182). -/
def State.resetByOrder (s : State) : State :=
  let s := s.resetNode
  s.withNotices (fun n => if faultUnread s.orders.fault then n.setFault else n)

/-- A RESET of the wrong length is refused like any order; with a full list its answer finds no place (log 29). -/
def State.refuseReset (s : State) (o : OrderPost) : State :=
  if s.answersFull then s else (s.refuse .length).settle 0x15 o

/-- RESET (R182): judged whatever the answer list holds (R171 step 2). -/
def State.takeReset (s : State) (o : OrderPost) : State :=
  if s.receives then
    let s := s.hearPost.leaveStandby
    if o.params.length = 0 then s.resetByOrder.ok.settle 0x15 o else s.refuseReset o
  else s

/-- RESET (R182). -/
def execReset (o : OrderPost) (s : State) : Host.Outcome State Fault Refusal := .next (s.takeReset o)

/-! ## Orders that name nothing -/

/-- An ORDER post with an unknown code is answered UNKNOWN; one without a tag is not taken (R171). The order it stands in for
has the sender, the destination and the tag of the post. -/
def execUnknownOrder (sender : Station) (toAll : Bool) (payload : List Byte) (s : State) :
    Host.Outcome State Fault Refusal :=
  match payload with
  | code :: tag :: params =>
    .next (s.takeOrder code ⟨sender, toAll, tag, params⟩ true (fun s => s.refuse .unknown))
  | _ => .next (if s.receives then s.hearPost.leaveStandby else s)

end Sys2Proof.Machine
end

