-- ==== Sys2Proof/Machine/SettingOrders.lean ====
section
/-! DEFINITION. The orders that set the probe inputs, the sampler, the capture, the counters and the decoders (R3, R5, R56, R59, R102). -/

namespace Sys2Proof.Machine

/-! ## CONFIGURE_CHANNELS -/

/-- The Probe Front End with the order's settings (R3). A channel that its new threshold moves joins the activity set. -/
def Pfe.configure (p : Pfe) (o : OrderPost) : Pfe :=
  let p' := { p with
    enabled := paramWord o 2
    inverted := paramWord o 4
    thresholds := p.thresholds.mapIdx (fun g t => if namesGroup o g then clampThreshold (orderThreshold o g) else t) }
  { p' with activity := (p.activity ||| (p.rawLevels ^^^ p'.rawLevels)) &&& p'.enabled }

/-- The judging of CONFIGURE_CHANNELS (R3). -/
def judgeConfigureChannels (o : OrderPost) (s : State) : Judged :=
  if s.capturing then s.refuse .state
  else if !groupSetFits o then s.refuse .range
  else (s.withPfe (s.pfe.configure o)).okOrClamped (thresholdsClamped o)

/-- CONFIGURE_CHANNELS (R3). -/
def execConfigureChannels (o : OrderPost) (s : State) : Host.Outcome State Fault Refusal :=
  .next (s.takeOrder 0x01 o (o.params.length == 13) (judgeConfigureChannels o))

/-! ## SET_SAMPLING -/

/-- The judging of SET_SAMPLING (R5). -/
def judgeSetSampling (o : OrderPost) (s : State) : Judged :=
  if s.capturing then s.refuse .state
  else
    match samplingOf o with
    | none => s.refuse .range
    | some c => (s.withSampler { s.sampler with settings := c }).okOrClamped (samplingClamped o)

/-- SET_SAMPLING (R5). -/
def execSetSampling (o : OrderPost) (s : State) : Host.Outcome State Fault Refusal :=
  .next (s.takeOrder 0x02 o (o.params.length == 9) (judgeSetSampling o))

/-! ## SET_CAPTURE -/

/-- The judging of SET_CAPTURE (R56). -/
def judgeSetCapture (o : OrderPost) (s : State) : Judged :=
  if s.capturing then s.refuse .state
  else
    let floor := paramField o 2 4
    ((s.withStore { s.store with floor := min 65535 floor }).withCapture
        { s.capture with postDepth := paramField o 6 4, armLimit := paramField o 10 2 }).okOrClamped
      (decide (65535 < floor))

/-- SET_CAPTURE (R56). -/
def execSetCapture (o : OrderPost) (s : State) : Host.Outcome State Fault Refusal :=
  .next (s.takeOrder 0x03 o (o.params.length == 10) (judgeSetCapture o))

/-! ## SET_COUNTER -/

/-- The named counter with new settings: value, latch, indications, mark and gate cleared (R59). -/
def Counter.configure (c : Counter) (x : CounterSettings) : Counter := { Counter.reset with settings := x, countedTo := c.countedTo }

/-- The bank with a SET_COUNTER applied; the cascade setting is written by an order naming the low counter (R59, R60). -/
def CounterBank.configure (b : CounterBank) (x : CounterOrder) : CounterBank :=
  let b := b.update x.k (fun c => c.configure x.settings)
  match x.k.val with
  | 0 => { b with cascade01 := x.cascade }
  | 2 => { b with cascade23 := x.cascade }
  | _ => b

/-- The judging of SET_COUNTER (R59). -/
def judgeSetCounter (o : OrderPost) (s : State) : Judged :=
  if s.capturing then s.refuse .state
  else
    match counterOf o with
    | none => s.refuse .range
    | some x => (s.withCounters (s.counters.configure x)).ok

/-- SET_COUNTER (R59). -/
def execSetCounter (o : OrderPost) (s : State) : Host.Outcome State Fault Refusal :=
  .next (s.takeOrder 0x04 o (o.params.length == 10) (judgeSetCounter o))

/-! ## SET_DECODER -/

/-- The slot as a SET_DECODER leaves it (R102). -/
def DecoderOrder.newSlot (x : DecoderOrder) : Slot := { Slot.reset with kind := x.kind, storeCopies := x.storeCopies, stream := x.stream }

/-- The judging of SET_DECODER (R102, R103, R171 step 4): an unknown kind is RANGE, then the length, then the state. -/
def judgeSetDecoder (o : OrderPost) (s : State) : Judged :=
  match decoderLength (paramNat o 3) with
  | none => s.refuse .range
  | some n =>
    if o.params.length ≠ n then s.refuse .length
    else if s.capturing then s.refuse .state
    else
      match decoderOf o with
      | none => s.refuse .range
      | some x => (s.withDecoders { s.decoders with slots := s.decoders.slots.set x.slot x.newSlot }).ok

/-- SET_DECODER (R102). A payload of fewer than 4 bytes is LENGTH (R171 step 4). -/
def execSetDecoder (o : OrderPost) (s : State) : Host.Outcome State Fault Refusal :=
  .next (s.takeOrder 0x05 o (decide (2 ≤ o.params.length)) (judgeSetDecoder o))

end Sys2Proof.Machine
end

