-- ==== Sys2Proof/Machine/StreamOrders.lean ====
section
/-! DEFINITION. The STREAM order with its two settings (R126, R127) and the orders of the Column Engine (R137, R149). -/

namespace Sys2Proof.Machine

/-! ## STREAM -/

/-- STREAM ON taken (R126). -/
def State.streamOn (s : State) (sender : Station) (x : StreamOrder) : State :=
  s.withStreamer
    (({ s.streamer with
        on := true, dest := some sender, batch := x.batch, threshold := x.threshold, timeout := x.timeout } :
      Streamer).judgeAge s.time.elapsed)

/-- STREAM OFF taken (R127): the queue is discarded with loss counting. -/
def State.streamOff (s : State) : State :=
  let s := s.discardQueue
  s.withStreamer { s.streamer with on := false, dest := none }

/-- The judging of a STREAM order by its setting byte (R126, R127). -/
def judgeStream (o : OrderPost) (s : State) : Judged :=
  match levelOf (paramNat o 2) with
  | none => s.refuse .range
  | some false => s.streamOff.ok
  | some true =>
    match streamOf o with
    | none => s.refuse .range
    | some x => (s.streamOn o.sender x).ok

/-- A STREAM order whose setting byte is not OFF (R126, log 22). -/
def execStreamOn (o : OrderPost) (s : State) : Host.Outcome State Fault Refusal :=
  .next (s.takeOrder 0x0D o (o.params.length == 4) (judgeStream o))

/-- A STREAM order whose setting byte is OFF (R127, log 22). -/
def execStreamOff (o : OrderPost) (s : State) : Host.Outcome State Fault Refusal :=
  .next (s.takeOrder 0x0D o (o.params.length == 4) (judgeStream o))

/-! ## REDUCE -/

/-- The reference can be read: the store is not empty, TRIGGER has its position, NEWEST its RUN (R137). -/
def State.canReduce (s : State) (p : ReduceParams) : Bool :=
  decide (s.store.records ≠ []) &&
    (match p.reference with
    | .trigger => s.store.trigger.isSome
    | .newest => s.store.newestRun.isSome
    | .epoch => true)

/-- Another station owns the current reduction (R137, R148, R149). -/
def State.reducesForOther (s : State) (sender : Station) : Bool := s.columns.current.any (fun r => r.owner != sender)

/-- N' and the cells per column (R137, R170). -/
def ReduceParams.result (p : ReduceParams) : List Byte := beBytes 2 p.width ++ [byteOf p.cells]

/-- The judging of REDUCE (R137, R138, R148): RANGE, BUSY, STATE. -/
def judgeReduce (o : OrderPost) (s : State) : Judged :=
  match reduceOf o with
  | none => s.refuse .range
  | some p =>
    if s.reducesForOther o.sender then s.refuse .busy
    else if !s.canReduce p then s.refuse .state
    else { state := (s.endReduction .superseded).beginReduction o.sender p, status := .ok, result := p.result }

/-- REDUCE (R137). -/
def execReduce (o : OrderPost) (s : State) : Host.Outcome State Fault Refusal :=
  .next (s.takeOrder 0x0E o (o.params.length == 19) (judgeReduce o))

/-! ## REDUCE_CANCEL -/

/-- The judging of REDUCE_CANCEL (R149). -/
def judgeReduceCancel (o : OrderPost) (s : State) : Judged :=
  if s.columns.current.isNone then s.refuse .state
  else if s.reducesForOther o.sender then s.refuse .busy
  else (s.endReduction .cancelled).ok

/-- REDUCE_CANCEL (R149). -/
def execReduceCancel (o : OrderPost) (s : State) : Host.Outcome State Fault Refusal :=
  .next (s.takeOrder 0x0F o (o.params.length == 0) (judgeReduceCancel o))

end Sys2Proof.Machine
end

