-- ==== Sys2Proof/Machine/Receive.lean ====
section
/-! DEFINITION. The receive checks on the bytes of a post (R156, R162), and what becomes of a post by its class. -/

namespace Sys2Proof.Machine

/-- The fields of a post heard (R156). -/
structure HeardPost where
  cls : Nat
  sender : Nat
  allFlag : Bool
  dest : Nat
  payload : List Byte
  deriving DecidableEq, Repr

/-- The post that bytes spell, if it did not end short and its length is at most 128 (R162). -/
def readPost : List Byte → Option HeardPost
  | b0 :: b1 :: b2 :: rest =>
    if 128 < b2.toNat ∨ rest.length < b2.toNat + 2 then none
    else some ⟨bitsOf b0 5 3, bitsOf b0 1 4, bitsOf b0 0 1 == 1, b1.toNat, rest.take b2.toNat⟩
  | _ => none

/-- The check of a post matches (R156, R162). -/
def checkMatches (bytes : List Byte) (payloadLength : Nat) : Bool :=
  (bytes.drop (payloadLength + 3)).take 2 == beBytes 2 (postCheck (bytes.take (payloadLength + 3))).toNat

/-- The header of a post stands (R162): sender, destination byte, all-flag, and the lengths of SIGNAL and MARK. A destination
byte of at most 15 has its upper bits zero. -/
def HeardPost.stands (p : HeardPost) : Bool :=
  decide (p.sender < 15) && decide (p.dest ≤ 15) && (p.allFlag == (p.dest == 15))
    && (p.cls != 1 || p.payload.length == 7) && (p.cls != 0 || p.payload.length == 6)

/-- A post that passes the receive checks (R162). -/
def acceptPost (bytes : List Byte) : Option HeardPost :=
  match readPost bytes with
  | none => none
  | some p => if checkMatches bytes p.payload.length && p.stands then some p else none

/-- The sender of an accepted post, which is below 15 (R162). -/
def HeardPost.station (p : HeardPost) : Station := if h : p.sender < 15 then ⟨p.sender, h⟩ else 14

/-- An order by its code (R171). -/
def deliverOrder (code : Byte) (o : OrderPost) (s : State) : Host.Outcome State Fault Refusal :=
  match code.toNat with
  | 0x01 => execConfigureChannels o s
  | 0x02 => execSetSampling o s
  | 0x03 => execSetCapture o s
  | 0x04 => execSetCounter o s
  | 0x05 => execSetDecoder o s
  | 0x06 => execLoadBegin o s
  | 0x07 => execLoadPart o s
  | 0x08 => execArm o s
  | 0x09 => execForceTrigger o s
  | 0x0A => execAbort o s
  | 0x0B => execRelease o s
  | 0x0C => execStandby o s
  | 0x0D => if o.params.head? = some 0 then execStreamOff o s else execStreamOn o s
  | 0x0E => execReduce o s
  | 0x0F => execReduceCancel o s
  | 0x10 => execReadRecords o s
  | 0x11 => execSearch o s
  | 0x12 => execQuery o s
  | 0x13 => execReadFault o s
  | 0x14 => execClearFault o s
  | 0x15 => execReset o s
  | _ => execUnknownOrder o.sender o.toAll (code :: o.tag :: o.params) s

/-- An ORDER post for the node (R162, R171). -/
def deliverPayload (p : HeardPost) (s : State) : Host.Outcome State Fault Refusal :=
  match p.payload with
  | code :: tag :: params => deliverOrder code ⟨p.station, p.dest == 15, tag, params⟩ s
  | short => execUnknownOrder p.station (p.dest == 15) short s

/-- A post that passed, by its class (R162): ORDER posts for others, NOTICE, ANSWER, COLUMNS, STREAM and RECORDS posts are set
aside. -/
def deliverPost (p : HeardPost) (s : State) : Host.Outcome State Fault Refusal :=
  match p.cls with
  | 0 => execMark p.station (BitVec.ofNat 48 (beNat p.payload)) s
  | 1 => execSignalReceipt p.station (p.payload.headD 0) (BitVec.ofNat 48 (beNat (p.payload.drop 1))) s
  | 3 => if p.dest = 15 ∨ p.dest = s.link.station.val then deliverPayload p s else .next s.hearPost
  | _ => .next s.hearPost

/-- POST_DISCARDED (R162, log 21): the bytes of a post as heard. One that fails the checks or is not for the node is discarded
or set aside with no effect but that the line was busy; one that the node takes is taken. -/
def execPostDiscarded (bytes : List Byte) (s : State) : Host.Outcome State Fault Refusal :=
  if s.receives then
    match acceptPost bytes with
    | none => .next s.hearPost
    | some p => deliverPost p s
  else .next s

end Sys2Proof.Machine
end

