-- ==== Sys2Proof/Machine/ProbeEvents.lean ====
section
/-! DEFINITION. The events of the probe inputs and of the sample stream: transitions with the wake (R1, R18, R55), samples (R7, R8), state-clock edges (R10 to R14), decoder timeouts (R117). -/

namespace Sys2Proof.Machine

/-! ## TRANSITION -/

/-- The Probe Front End with another input (R1). -/
def Pfe.withInput (p : Pfe) (ch : Channel) (mv : Int) : Pfe := { p with inputs := p.inputs.set ch.val mv }

/-- A transition joins the channel to the activity set (R4). -/
def Pfe.noteActivity (p : Pfe) (ch : Channel) : Pfe := { p with activity := p.activity ||| oneChannel ch }

/-- The Sampler counts a transition of a channel since the previous sample (R9). -/
def Sampler.countTransition (p : Sampler) (ch : Channel) : Sampler :=
  { p with
    movedTwice := p.movedTwice ||| (p.movedOnce &&& oneChannel ch)
    movedOnce := p.movedOnce ||| oneChannel ch }

/-- The pending HOLD sample is cancelled (R12). A miss before its edge is then still to be marked (R14, log 20). -/
def Sampler.cancelHold (p : Sampler) : Sampler :=
  match p.hold with
  | none => p
  | some h => { p with hold := none, missSinceTaken := p.missSinceTaken || h.afterMiss }

/-- A clock transition stamped after the edge tick and at or before the due tick cancels the pending HOLD sample (R12). -/
def Sampler.clockMoved (p : Sampler) (stamp : Nat) : Sampler :=
  match p.hold with
  | none => p
  | some h => if h.edgeTick < stamp ∧ stamp ≤ h.due then p.cancelHold else p

/-- A transition of the clock channel waits to be examined (R10), with the qualifier's level as it stands. -/
def Sampler.noteClockEdge (p : Sampler) (stamp : Nat) (level qualifier : Bool) : Sampler :=
  let p := p.clockMoved stamp
  { p with clockEdges := p.clockEdges ++ [⟨stamp, level, qualifier⟩] }

/-- A transition of the qualifier channel changes its level at the ticks of the waiting edges from its stamp on (R1, R10). -/
def Sampler.noteQualifier (p : Sampler) (stamp : Nat) (level : Bool) : Sampler :=
  { p with clockEdges := p.clockEdges.map (fun e => if stamp ≤ e.tick then { e with qualifier := level } else e) }

/-- A transition in state mode: of the clock channel, of the qualifier channel, or of another (R10). -/
def Sampler.noteStateTransition (p : Sampler) (ch : Channel) (stamp : Nat) (level qualifier : Bool) : Sampler :=
  if p.record.mode = .timing then p
  else if ch = p.settings.clockChannel then p.noteClockEdge stamp level qualifier
  else if p.settings.qualifier = some ch then p.noteQualifier stamp level
  else p

/-- The normalised level of the qualifier channel, HIGH when the qualifier is absent (R10). -/
def State.qualifierLevel (s : State) : Bool := s.sampler.settings.qualifier.all s.pfe.level

/-- A transition during a capture (R9, R10). -/
def State.sampledTransition (s : State) (ch : Channel) (level : Bool) : State :=
  if s.capturing then
    s.withSampler ((s.sampler.countTransition ch).noteStateTransition ch s.transitionStamp level s.qualifierLevel)
  else s

/-- The transition is a wake edge (R18). -/
def State.isWakeEdge (s : State) (ch : Channel) (rising : Bool) : Bool :=
  s.capture.state == .standby && s.pfe.wakeSet.any (fun m => m.ch == ch && m.edge.takes rising)

/-- The wake ARM's failing cause: 7 for a load in progress, else the arm check (R55, R170). -/
def State.wakeFailure (s : State) : Option Nat := if s.seq.load.isSome then some 7 else s.armConflict

/-- The wake action in the return state (R55). -/
def State.wakeAction (s : State) : State × WakeResult × Nat :=
  if s.capture.wakeArm then
    match s.wakeFailure with
    | some cause => (s, .armFailed, cause)
    | none => (s.armEffects, .armed, 0)
  else (s, .none, 0)

/-- The first wake edge ends the standby (R18, R55). -/
def State.wake (s : State) (ch : Channel) (rising : Bool) : State :=
  let r := s.leaveStandby.wakeAction
  r.1.withNotices (fun n => n.setActivity ⟨ch, rising, s.tick, r.2.1, r.2.2⟩)

/-- A transition of an enabled channel, to a normalised level (R2, R4, R9, R10, R18). -/
def State.enabledTransition (s : State) (ch : Channel) (level : Bool) : State :=
  let s := (s.withPfe (s.pfe.noteActivity ch)).sampledTransition ch level
  if s.isWakeEdge ch level then s.wake ch level else s

/-- The input of a channel moves (R1). A change of the detected level is a transition; a disabled channel has none (R2). With
the reset pin held low the input moves and nothing else does (log 24). -/
def State.moveInput (s : State) (ch : Channel) (mv : Int) : State :=
  let old := s.pfe.detected ch
  let s := s.withPfe (s.pfe.withInput ch mv)
  if s.resetHeld || s.pfe.detected ch == old || !hasChannel s.pfe.enabled ch then s
  else s.enabledTransition ch (s.pfe.level ch)

/-- TRANSITION (R1). -/
def execTransition (ch : Channel) (mv : Int) (s : State) : Host.Outcome State Fault Refusal := .next (s.moveInput ch mv)

/-! ## SAMPLE -/

/-- A grid sample is due at this tick (R8). -/
def State.gridDue (s : State) : Bool :=
  !s.resetHeld && s.capturing && s.sampler.record.mode == .timing
    && decide (s.tick % s.sampler.record.divisor = 0) && s.sampler.lastSampleTick != some s.tick

/-- SAMPLE (R7, R8): nothing happens where no grid sample is due (log 2). -/
def execSample (s : State) : Host.Outcome State Fault Refusal :=
  .next (if s.gridDue then s.takeSample false else s)

/-! ## ACTIVE_EDGE -/

/-- A clock transition waits whose tick has come (R10). -/
def State.edgeDue (s : State) : Option ClockEdge :=
  if s.resetHeld || !s.capturing then none
  else s.sampler.clockEdges.head?.bind (fun e => if e.tick ≤ s.tick then some e else none)

/-- The edge is qualified: the qualifier's level at the edge's tick is the qualifying level (R10). -/
def SamplerSettings.qualifies (c : SamplerSettings) (e : ClockEdge) : Bool :=
  c.qualifier.isNone || e.qualifier == c.qualifyingLevel

/-- The edge is at least 2 ticks after the previous taken edge, or the first taken one (R14). -/
def Sampler.spaced (p : Sampler) (tick : Nat) : Bool :=
  match p.lastTaken with
  | none => true
  | some t => decide (t + 2 ≤ tick)

/-- The delay Td in ticks (R12, R13). -/
def SamplerSettings.td (c : SamplerSettings) : Nat := c.tdFactor * c.tdMultiplier

/-- An edge is missed (R14). -/
def State.missEdge (s : State) : State :=
  (s.withSampler
      { s.sampler with missed := min Config.countMax (s.sampler.missed + 1), missSinceTaken := true }).withNotices
    NoticeSet.setStateOverrun

/-- An edge is taken: a sample now, a pending HOLD sample, or an entry of the delay line (R11 to R13). -/
def State.takeEdge (s : State) (e : ClockEdge) : State :=
  let miss := s.sampler.missSinceTaken
  let td := s.sampler.settings.td
  let p := { s.sampler with lastTaken := some e.tick, missSinceTaken := false }
  match s.sampler.settings.clockType with
  | .edge => (s.withSampler p).takeSample miss
  | .hold => s.withSampler { p with hold := some ⟨e.tick, e.tick + td, e.level, miss⟩ }
  | .delayed =>
    if td = 0 then (s.withSampler p).takeSample miss
    else s.withSampler { p with delayLine := p.delayLine ++ [⟨e.tick + td, miss⟩] }

/-- An active edge reads the levels of its tick for the qualifier's, when a qualifier is present (R10, log 4). -/
def State.readQualifier (s : State) : State :=
  if s.sampler.settings.qualifier.isSome then
    s.withSampler { s.sampler with levelsRead := some ⟨s.tick, s.levelsNow⟩ }
  else s

/-- An active edge is ignored when it is not qualified, and is otherwise taken or missed by its spacing (R10, R14). -/
def State.judgeEdge (s : State) (e : ClockEdge) : State :=
  if !s.sampler.settings.qualifies e then s
  else if s.sampler.spaced e.tick then s.takeEdge e
  else s.missEdge

/-- A clock transition is examined (R10): one in the direction of the clock edge setting is an active edge. -/
def State.examineEdge (s : State) (e : ClockEdge) : State :=
  let s := s.withSampler { s.sampler with clockEdges := s.sampler.clockEdges.drop 1 }
  if s.sampler.settings.clockEdge.takes e.level then s.readQualifier.judgeEdge e
  else s

/-- The oldest clock transition whose tick has come is examined, if there is one. -/
def State.activeEdge (s : State) : State :=
  match s.edgeDue with
  | none => s
  | some e => s.examineEdge e

/-- ACTIVE_EDGE (R10). -/
def execActiveEdge (s : State) : Host.Outcome State Fault Refusal := .next s.activeEdge

/-! ## HOLD_SAMPLE_DUE -/

/-- The pending HOLD sample is due (R12). -/
def State.holdDue (s : State) : Option HoldSample :=
  if s.resetHeld || !s.capturing then none
  else s.sampler.hold.bind (fun h => if h.due ≤ s.tick then some h else none)

/-- The clock stands at the active level of the pending HOLD sample (R12). -/
def State.holdKept (s : State) (h : HoldSample) : Bool := hasChannel s.levelsNow s.sampler.settings.clockChannel == h.activeLevel

/-- The pending HOLD sample completes when the clock still holds its active level, and is cancelled else (R12). -/
def State.completeHold (s : State) (h : HoldSample) : State :=
  if s.holdKept h then (s.withSampler { s.sampler with hold := none }).takeSample h.afterMiss
  else s.withSampler s.sampler.cancelHold

/-- HOLD_SAMPLE_DUE (R12). -/
def execHoldSampleDue (s : State) : Host.Outcome State Fault Refusal :=
  .next (match s.holdDue with
    | none => s
    | some h => s.completeHold h)

/-! ## DELAY_LINE_DUE -/

/-- The oldest entry of the delay line is due (R13). -/
def State.delayDue (s : State) : Option DelayEntry :=
  if s.resetHeld || !s.capturing then none
  else s.sampler.delayLine.head?.bind (fun e => if e.due ≤ s.tick then some e else none)

/-- The oldest entry completes as a sample (R13). -/
def State.completeDelay (s : State) (e : DelayEntry) : State :=
  (s.withSampler { s.sampler with delayLine := s.sampler.delayLine.drop 1 }).takeSample e.afterMiss

/-- DELAY_LINE_DUE (R13). -/
def execDelayLineDue (s : State) : Host.Outcome State Fault Refusal :=
  .next (match s.delayDue with
    | none => s
    | some e => s.completeDelay e)

/-! ## The sample that is due, whatever its kind -/

/-- The state after the sample that is due at this tick, if one is (log 7). -/
def State.dueSample (s : State) : Option State :=
  if s.gridDue then some (s.takeSample false)
  else
    match s.holdDue, s.delayDue with
    | some h, _ => if s.holdKept h then some (s.completeHold h) else none
    | none, some e => some (s.completeDelay e)
    | none, none => if s.activeEdge.sampler.nextIndex = s.sampler.nextIndex then none else some s.activeEdge

/-! ## INTERLOCKED_TIMEOUT -/

/-- The slot's INTERLOCKED word meets its timeout at the next sample, by its index (R117). -/
def State.timeoutNext (s : State) (slot : Fin 4) : Bool :=
  match (s.decoders.slots.get slot).kind, (s.decoders.slots.get slot).phase with
  | .strobed c, .inWord (.strobed _ index (some _)) => decide (s.sampler.nextIndex = index + c.timeout)
  | _, _ => false

/-- The sample read now completes a word of the slot with STALL (R117). -/
def State.stallsNow (s : State) (slot : Fin 4) : Bool :=
  (s.decoders.completed s.readSample).any (fun r => r.slot == slot && r.errors.stall)

/-- INTERLOCKED_TIMEOUT (R117): the sample at latch index + T is taken, at which the word completes with STALL (log 7). -/
def execInterlockedTimeout (slot : Fin 4) (s : State) : Host.Outcome State Fault Refusal :=
  .next (if s.timeoutNext slot && s.stallsNow slot then s.dueSample.getD s else s)

end Sys2Proof.Machine
end

