-- ==== Sys2Proof/Machine/TimerEvents.lean ====
section
/-! DEFINITION. The events of counters, capture ends, timers and the readout unit (R34, R38, R44, R47, R48, R63, R65, R94, R129, R151). -/

namespace Sys2Proof.Machine

/-! ## Counters -/

/-- The counter has a TICK occurrence of the present tick to count, in one of the modes given (R61). -/
def State.tickCountDue (s : State) (k : Fin 4) (modes : List CounterMode) : Bool :=
  !s.resetHeld && s.capturing && (s.counters.k.get k).tickDue s.tick
    && modes.contains (s.counters.k.get k).settings.mode

/-- The counter counts its TICK occurrence of the present tick (R61). -/
def State.countTickNow (s : State) (k : Fin 4) : State := s.withCounters (s.counters.countTick s.tick k)

/-- COUNTER_EXPIRY (R63): a COUNT counter counts its TICK occurrence, which is its expiry when it reaches the reload (log 8).
Expiries at samples belong to the sample. -/
def execCounterExpiry (k : Fin 4) (s : State) : Host.Outcome State Fault Refusal :=
  .next (if s.tickCountDue k [.count] then s.countTickNow k else s)

/-- COUNTER_OVERFLOW (R65): a PERIOD or GATED counter counts its TICK occurrence, which overflows it when it saturates
(log 8). -/
def execCounterOverflow (k : Fin 4) (s : State) : Host.Outcome State Fault Refusal :=
  .next (if s.tickCountDue k [.period, .gated] then s.countTickNow k else s)

/-! ## Capture ends -/

/-- The capture ended DEPTH or with its STORE_LIMIT in place of DEPTH, with the countdown at 0 (R47). -/
def State.endedByDepth (s : State) : Bool := s.capture.state == .done && s.capture.countdown == 0

/-- DEPTH (R47): the sample that brings the countdown to 0 is taken and ends the capture (log 7). -/
def execDepth (s : State) : Host.Outcome State Fault Refusal :=
  .next (if s.resetHeld || !s.capturing then s
    else if s.capture.state = .triggered ∧ s.capture.countdown = 0 then s.endCapture .depth
    else
      match s.dueSample with
      | none => s
      | some s' => if s'.endedByDepth then s' else s)

/-- The arm-limit timer has expired in ARMED (R44). -/
def State.armLimitDue (s : State) : Bool :=
  !s.resetHeld && s.capture.state == .armed && s.capture.armTimer.any (fun t => decide (t ≤ s.tick))

/-- NO_TRIGGER (R44). -/
def execNoTrigger (s : State) : Host.Outcome State Fault Refusal :=
  .next (if s.armLimitDue then s.endCapture .noTrigger else s)

/-- The tick counter stands at 2^48-1 in a capture (R48). -/
def State.tickLimitDue (s : State) : Bool := !s.resetHeld && s.capturing && decide (Config.tickMax ≤ s.tick)

/-- TIME_LIMIT (R48). -/
def execTimeLimit (s : State) : Host.Outcome State Fault Refusal :=
  .next (if s.tickLimitDue then s.endCapture .timeLimit else s)

/-! ## Timers of elapsed time -/

/-- The load gap timer has expired (R94, R184). -/
def State.loadGapDue (s : State) : Bool := !s.resetHeld && s.orders.loadTimer.any (fun t => decide (t ≤ s.time.elapsed))

/-- The load in progress is abandoned, with its LOAD_TIMEOUT notice (R94). -/
def State.loadExpired (s : State) : State :=
  match s.seq.load with
  | none => s.abandonLoad
  | some l => s.abandonLoad.withNotices (fun n => n.setLoadTimeout ⟨l.owner, l.total, l.staged.length⟩)

/-- LOAD_TIMEOUT (R94). -/
def execLoadTimeout (s : State) : Host.Outcome State Fault Refusal :=
  .next (if s.loadGapDue then s.loadExpired else s)

/-- The oldest queued record reaches the age W x 100 us (R129). -/
def State.batchDue (s : State) : Bool := !s.resetHeld && s.streamer.ageDue s.time.elapsed

/-- BATCH_TIMEOUT (R129): the post is ready by age. -/
def execBatchTimeout (s : State) : Host.Outcome State Fault Refusal :=
  .next (if s.batchDue then s.withStreamer (s.streamer.judgeAge s.time.elapsed) else s)

/-- The repeat timer of the current reduction has expired (R151). -/
def State.repeatDue (s : State) : Option Reduction :=
  if s.resetHeld then none
  else
    s.columns.current.bind (fun r =>
      match r.phase with
      | .waiting expiry => if expiry ≤ s.time.elapsed then some r else none
      | .starting | .passing | .closing => none)

/-- REPEAT_TIMER_EXPIRY (R151). -/
def execRepeatTimerExpiry (s : State) : Host.Outcome State Fault Refusal :=
  .next (match s.repeatDue with
    | none => s
    | some r => s.repeatPass r)

/-! ## The readout unit -/

/-- READ_BUILD (R34): a building read goes one record on, or ends. Its job belongs to a node out of reset (R183). -/
def execReadBuild (s : State) : Host.Outcome State Fault Refusal :=
  .next (match s.readout with
    | .building j => if s.resetHeld || j.waitsForAnswer then s else s.buildStep j
    | .free | .walking _ | .holding _ => s)

/-- SEARCH_WALK_END (R38): the walk ends at its match or with NOT_FOUND (log 34). -/
def execSearchWalkEnd (s : State) : Host.Outcome State Fault Refusal :=
  .next (match s.readout with
    | .walking j => if s.resetHeld then s else s.endWalk j
    | .free | .building _ | .holding _ => s)

end Sys2Proof.Machine
end

