-- ==== Sys2Proof/Machine/Dispatch.lean ====
section
/-! DEFINITION. The meaning of every command, one arm each. -/

namespace Sys2Proof.Machine

/-- A command's effect on everything but the queue. -/
def exec (i : Instr) (s : State) : Host.Outcome State Fault Refusal :=
  match i with
  | .configureChannels o => Sys2Proof.Machine.execConfigureChannels o s
  | .setSampling o => Sys2Proof.Machine.execSetSampling o s
  | .setCapture o => Sys2Proof.Machine.execSetCapture o s
  | .setCounter o => Sys2Proof.Machine.execSetCounter o s
  | .setDecoder o => Sys2Proof.Machine.execSetDecoder o s
  | .loadBegin o => Sys2Proof.Machine.execLoadBegin o s
  | .loadPart o => Sys2Proof.Machine.execLoadPart o s
  | .arm o => Sys2Proof.Machine.execArm o s
  | .forceTrigger o => Sys2Proof.Machine.execForceTrigger o s
  | .abort o => Sys2Proof.Machine.execAbort o s
  | .release o => Sys2Proof.Machine.execRelease o s
  | .standby o => Sys2Proof.Machine.execStandby o s
  | .streamOn o => Sys2Proof.Machine.execStreamOn o s
  | .streamOff o => Sys2Proof.Machine.execStreamOff o s
  | .reduce o => Sys2Proof.Machine.execReduce o s
  | .reduceCancel o => Sys2Proof.Machine.execReduceCancel o s
  | .readRecords o => Sys2Proof.Machine.execReadRecords o s
  | .search o => Sys2Proof.Machine.execSearch o s
  | .query o => Sys2Proof.Machine.execQuery o s
  | .readFault o => Sys2Proof.Machine.execReadFault o s
  | .clearFault o => Sys2Proof.Machine.execClearFault o s
  | .reset o => Sys2Proof.Machine.execReset o s
  | .unknownOrder sender toAll payload => Sys2Proof.Machine.execUnknownOrder sender toAll payload s
  | .signalReceipt sender flags origin => Sys2Proof.Machine.execSignalReceipt sender flags origin s
  | .mark sender t0 => Sys2Proof.Machine.execMark sender t0 s
  | .postDiscarded bytes => Sys2Proof.Machine.execPostDiscarded bytes s
  | .transition ch millivolts => Sys2Proof.Machine.execTransition ch millivolts s
  | .sample => Sys2Proof.Machine.execSample s
  | .activeEdge => Sys2Proof.Machine.execActiveEdge s
  | .holdSampleDue => Sys2Proof.Machine.execHoldSampleDue s
  | .delayLineDue => Sys2Proof.Machine.execDelayLineDue s
  | .interlockedTimeout slot => Sys2Proof.Machine.execInterlockedTimeout slot s
  | .counterExpiry k => Sys2Proof.Machine.execCounterExpiry k s
  | .counterOverflow k => Sys2Proof.Machine.execCounterOverflow k s
  | .depth => Sys2Proof.Machine.execDepth s
  | .noTrigger => Sys2Proof.Machine.execNoTrigger s
  | .timeLimit => Sys2Proof.Machine.execTimeLimit s
  | .loadTimeout => Sys2Proof.Machine.execLoadTimeout s
  | .batchTimeout => Sys2Proof.Machine.execBatchTimeout s
  | .repeatTimerExpiry => Sys2Proof.Machine.execRepeatTimerExpiry s
  | .readBuild => Sys2Proof.Machine.execReadBuild s
  | .searchWalkEnd => Sys2Proof.Machine.execSearchWalkEnd s
  | .lineIdle => Sys2Proof.Machine.execLineIdle s
  | .postStart => Sys2Proof.Machine.execPostStart s
  | .sentInFull => Sys2Proof.Machine.execSentInFull s
  | .withdrawn => Sys2Proof.Machine.execWithdrawn s
  | .collision => Sys2Proof.Machine.execCollision s
  | .resetPin => Sys2Proof.Machine.execResetPin s
  | .resetPinRelease stationStraps rateStraps => Sys2Proof.Machine.execResetPinRelease stationStraps rateStraps s

end Sys2Proof.Machine
end

