-- ==== Sys2Proof/Machine/Time.lean ====
section
/-! DEFINITION. What happens on an empty queue: the event that is due, or the passing of one tick (R166, logs 1 and 10). -/

namespace Sys2Proof.Machine

/-- A TICK occurrence still to be counted, as the command that counts it (R61). -/
def State.dueCount (s : State) : Option Instr :=
  if s.resetHeld || !s.capturing then none
  else
    (s.counters.dueTick s.tick).map (fun k =>
      if (s.counters.k.get k).settings.mode = .count then .counterExpiry k else .counterOverflow k)

/-- The events that are due, in the order the model takes them (log 10). -/
def State.dueEvents (s : State) : List (Bool × Instr) :=
  [ (s.edgeDue.isSome, .activeEdge),
    (s.holdDue.isSome, .holdSampleDue),
    (s.delayDue.isSome, .delayLineDue),
    (s.gridDue, .sample),
    (s.armLimitDue, .noTrigger),
    (s.tickLimitDue, .timeLimit),
    (s.loadGapDue, .loadTimeout),
    (s.batchDue, .batchTimeout),
    (s.repeatDue.isSome, .repeatTimerExpiry),
    ((s.flightWhen s.link.ended).isSome, .sentInFull),
    (s.startDue, .postStart) ]

/-- The event the node takes next by itself (log 1). -/
def State.dueEvent (s : State) : Option Instr :=
  match s.dueCount with
  | some c => some c
  | none => (s.dueEvents.find? Prod.fst).map Prod.snd

/-- At the instant of a tick the clock must hold the active level of a pending HOLD sample (R12). -/
def State.holdInstant (s : State) : State :=
  match s.sampler.hold with
  | none => s
  | some h => if s.holdKept h then s else s.withSampler s.sampler.cancelHold

/-- One tick of 2.5 ns passes (R166). The occurrences of the tick that ends are counted, so partner expiries act on their gates
(R66). The posts that are ready on an idle line may start at the new instant (R157). The tick counter stands still while the
reset pin is held low (R183, log 24). -/
def State.passTick (s : State) : State :=
  if s.resetHeld then s.withTime { s.time with elapsed := s.time.elapsed + 1 }
  else
    let s := s.holdInstant
    let s := s.withCounters s.counters.actGates
    (s.withTime ⟨nextTick s.time.tick, s.time.elapsed + 1⟩).offerReady

end Sys2Proof.Machine
end

