-- ==== Sys2Proof/WellFormed.lean ====
section
/-! DEFINITION. Which commands the outside world can send: the bounds that the link and the probe inputs give them. -/

namespace Sys2Proof

/-- A post's payload holds at most 128 bytes (R156), so an order's parameters at most 126. -/
def OrderPost.wellFormed (o : OrderPost) : Bool := o.params.length ≤ 126

/-- The order codes of R171's table. -/
def namesOrder (code : Byte) : Bool := 1 ≤ code.toNat && code.toNat ≤ 0x15

/-- What a command must be for some post, line event or pin event to spell it. -/
def Instr.wellFormed : Instr → Bool
  | .configureChannels o | .setSampling o | .setCapture o | .setCounter o | .setDecoder o
  | .loadBegin o | .loadPart o | .arm o | .forceTrigger o | .abort o | .release o | .standby o
  | .reduce o | .reduceCancel o | .readRecords o | .search o | .query o | .readFault o
  | .clearFault o | .reset o => o.wellFormed
  | .streamOn o => o.wellFormed && o.params.head? != some 0
  | .streamOff o => o.wellFormed && o.params.head? == some 0
  | .unknownOrder _ _ payload =>
    payload.length ≤ 128 && (payload.length < 2 || !namesOrder (payload.headD 0))
  | .signalReceipt _ _ _ => true
  | .mark _ _ => true
  | .postDiscarded bytes => bytes.length ≤ 260
  | .transition _ mv => -30000 ≤ mv && mv ≤ 30000
  | .sample | .activeEdge | .holdSampleDue | .delayLineDue | .interlockedTimeout _
  | .counterExpiry _ | .counterOverflow _ | .depth | .noTrigger | .timeLimit | .loadTimeout
  | .batchTimeout | .repeatTimerExpiry | .readBuild | .searchWalkEnd | .lineIdle | .postStart
  | .sentInFull | .withdrawn | .collision | .resetPin | .resetPinRelease _ _ => true

end Sys2Proof
end

