-- ==== Sys2Proof/Safety.lean ====
section
/-! DEFINITION. What the statements speak of: the premises of an order, the state after a verdict, and the invariants. -/

namespace Sys2Proof.Machine

/-! ## Orders -/

/-- An order post is received out of standby and finds place in the answer list when it needs one (R54, R155, R171). -/
def State.orderReady (s : State) (o : OrderPost) : Prop :=
  s.receives = true ∧ s.capture.state ≠ .standby ∧ (o.toAll = true ∨ s.orders.answers.length < 4)

/-- The Link Controller after a post was heard: the line is not idle. -/
def State.heardLink (s : State) : LinkController := { s.link with idleSince := none }

/-- The answer list after a verdict (R172, R173). -/
def State.answersWith (s : State) (o : OrderPost) (code : Byte) (status : Status) (index : Nat) (result : List Byte)
    (startsRead : Bool) : List Answer :=
  if o.toAll then s.orders.answers
  else s.orders.answers ++ [⟨o.sender, code, o.tag, status, index, result, startsRead⟩]

/-- The Order Unit after a verdict without a result. -/
def State.ordersWith (s : State) (o : OrderPost) (code : Byte) (status : Status) (index : Nat) : OrderUnit :=
  { s.orders with answers := s.answersWith o code status index [] false }

/-- The state after an order that changed nothing but the answer list (R174). -/
def State.onlyAnswered (s : State) (o : OrderPost) (code : Byte) (status : Status) (index : Nat) : State :=
  { s with link := s.heardLink, orders := s.ordersWith o code status index }

/-- The orders whose code and payload length stand in R171's table: code, parameter bytes, and the post. -/
def fixedLength : Instr → Option (Byte × Nat × OrderPost)
  | .configureChannels o => some (0x01, 13, o)
  | .setSampling o => some (0x02, 9, o)
  | .setCapture o => some (0x03, 10, o)
  | .setCounter o => some (0x04, 10, o)
  | .loadBegin o => some (0x06, 2, o)
  | .arm o => some (0x08, 0, o)
  | .forceTrigger o => some (0x09, 0, o)
  | .abort o => some (0x0A, 0, o)
  | .release o => some (0x0B, 0, o)
  | .streamOn o => some (0x0D, 4, o)
  | .streamOff o => some (0x0D, 4, o)
  | .reduce o => some (0x0E, 19, o)
  | .reduceCancel o => some (0x0F, 0, o)
  | .readRecords o => some (0x10, 8, o)
  | .search o => some (0x11, 8, o)
  | .query o => some (0x12, 1, o)
  | .readFault o => some (0x13, 0, o)
  | .clearFault o => some (0x14, 0, o)
  | .reset o => some (0x15, 0, o)
  | _ => none

/-- The post of an order that the full answer list turns away (R171 step 2): every order but RESET. -/
def turnedAway : Instr → Option Bool
  | .setDecoder o | .loadPart o | .standby o => some o.toAll
  | .unknownOrder _ toAll _ => some toAll
  | .reset _ => none
  | i => (fixedLength i).map (fun x => x.2.2.toAll)

/-- The command is an ORDER post for the node. -/
def isOrder (i : Instr) : Bool :=
  match i with
  | .reset _ => true
  | i => (turnedAway i).isSome

/-- The command is a post heard on the line. -/
def isPost (i : Instr) : Bool :=
  match i with
  | .signalReceipt _ _ _ | .mark _ _ | .postDiscarded _ => true
  | i => isOrder i

/-- The command acts on a node whose reset pin is held low: the pin itself, and the world's inputs (R183). -/
def actsInReset : Instr → Bool
  | .transition _ _ | .resetPin | .resetPinRelease _ _ => true
  | _ => false

/-! ## What the bytes of an order give -/

/-- Every field of a SET_SAMPLING is one that R5 takes. -/
def samplingFits (o : OrderPost) : Prop :=
  paramNat o 2 ≤ 1 ∧ paramNat o 5 < 16 ∧ paramNat o 6 ≤ 2 ∧ paramNat o 7 % 64 < 16 ∧ paramNat o 8 ≤ 2
    ∧ paramNat o 9 ≤ 15 ∧ paramNat o 10 ≤ 3 ∧ ¬(128 ≤ paramNat o 7 ∧ paramNat o 7 % 64 = paramNat o 5)

/-- Every field of a SET_COUNTER is one that R59 and R60 take. -/
def counterFits (o : OrderPost) : Prop :=
  paramNat o 2 < 4 ∧ paramNat o 3 ≤ 4 ∧ paramNat o 4 ≤ 5 ∧ paramNat o 5 < 16 ∧ paramNat o 6 ≤ 2 ∧ paramNat o 7 < 16
    ∧ paramNat o 8 ≤ 2 ∧ paramNat o 11 % 4 ≤ 2 ∧ paramNat o 11 / 4 % 4 = 0 ∧ paramNat o 11 / 16 % 4 ≤ 1
    ∧ paramNat o 11 / 64 % 2 = 0 ∧ ¬(paramNat o 3 = 4 ∧ paramNat o 2 % 2 = 0)
    ∧ ¬(128 ≤ paramNat o 11 ∧ paramNat o 2 % 2 = 1)

/-- The members of a STANDBY's wake set and its action are ones that R52 takes. -/
def standbyFits (o : OrderPost) : Prop :=
  paramNat o 2 ≤ 1 ∧ (∀ b ∈ o.params.drop 2, b.toNat % 64 < 16 ∧ b.toNat / 64 ≤ 2)
    ∧ ((o.params.drop 2).map (fun b => b.toNat % 64)).Nodup

/-- The mode, T and W of a STREAM ON are ones that R126 takes. -/
def streamFits (o : OrderPost) : Prop :=
  paramNat o 3 ≤ 1 ∧ (paramNat o 4 = 1 ∨ paramNat o 4 = 8 ∨ paramNat o 4 = 16 ∨ paramNat o 4 = 32) ∧ paramNat o 5 ≠ 0

/-- The channel that a byte with a presence bit names, if it names one (R170). -/
def namedChannel (o : OrderPost) (n : Nat) : Option Nat :=
  if 128 ≤ paramNat o n then some (paramNat o n % 32) else none

/-- A byte with a presence bit holds a channel number up to 15, present or absent (log 18), and no unnamed bit (R170). -/
def optionalFits (o : OrderPost) (n : Nat) : Prop := paramNat o n % 128 < 16

/-- The ASYNC fields are ones that R103 takes. -/
def asyncFits (o : OrderPost) : Prop :=
  paramNat o 5 < 16 ∧ paramNat o 6 ≤ 1 ∧ 5 ≤ paramNat o 7 ∧ paramNat o 7 ≤ 9 ∧ paramNat o 8 ≤ 4 ∧ paramNat o 9 ≤ 2
    ∧ paramNat o 10 ≤ 1 ∧ 64 ≤ paramField o 11 3 ∧ paramField o 11 3 ≤ 1048575

/-- The CLOCKED fields are ones that R103 takes. -/
def clockedFits (o : OrderPost) : Prop :=
  paramNat o 5 < 16 ∧ paramNat o 6 ≤ 1 ∧ paramNat o 7 < 16 ∧ optionalFits o 8 ∧ paramNat o 9 ≤ 1 ∧ 4 ≤ paramNat o 10
    ∧ paramNat o 10 ≤ 16 ∧ paramNat o 11 ≤ 1 ∧ paramNat o 7 ≠ paramNat o 5
    ∧ namedChannel o 8 ≠ some (paramNat o 5) ∧ namedChannel o 8 ≠ some (paramNat o 7)

/-- A channel lies in the data range of a STROBED order. -/
def inDataRange (o : OrderPost) (ch : Nat) : Prop := paramNat o 5 ≤ ch ∧ ch < paramNat o 5 + paramNat o 6

/-- The STROBED fields are ones that R103 takes. -/
def strobedFits (o : OrderPost) : Prop :=
  paramNat o 5 < 16 ∧ 1 ≤ paramNat o 6 ∧ paramNat o 6 ≤ 8 ∧ paramNat o 5 + paramNat o 6 ≤ 16 ∧ paramNat o 7 < 16
    ∧ paramNat o 8 ≤ 1 ∧ paramNat o 9 ≤ 3 ∧ paramField o 10 2 ≠ 0 ∧ optionalFits o 12 ∧ paramNat o 13 ≤ 1
    ∧ optionalFits o 16 ∧ paramNat o 17 ≤ 1 ∧ ¬inDataRange o (paramNat o 7)
    ∧ (∀ a, namedChannel o 12 = some a → a ≠ paramNat o 7 ∧ ¬inDataRange o a ∧ paramField o 14 2 ≠ 0)
    ∧ (∀ c, namedChannel o 16 = some c → c ≠ paramNat o 7 ∧ namedChannel o 12 ≠ some c ∧ ¬inDataRange o c)
    ∧ (paramNat o 9 = 3 → namedChannel o 12 ≠ none)

/-- Every field of a SET_DECODER is one that R103 and R170 take. -/
def decoderFits (o : OrderPost) : Prop :=
  paramNat o 2 < 4 ∧ paramNat o 4 < 4 ∧
    match paramNat o 3 with
    | 0 => True
    | 1 => asyncFits o
    | 2 => clockedFits o
    | 3 => strobedFits o
    | _ => False

/-- A slot kind holds the fields of a SET_DECODER (R104, R110, R113, R170). -/
def kindReads (o : OrderPost) : DecoderKind → Prop
  | .off => paramNat o 3 = 0
  | .async c =>
    paramNat o 3 = 1 ∧ c.data.val = paramNat o 5 ∧ c.idle = decide (paramNat o 6 = 1) ∧ c.bits = paramNat o 7
      ∧ parityOf (paramNat o 8) = some c.parity ∧ stopBitsOf (paramNat o 9) = some c.stop
      ∧ c.msbFirst = decide (paramNat o 10 = 1) ∧ c.period = paramField o 11 3
  | .clocked c =>
    paramNat o 3 = 2 ∧ c.clock.val = paramNat o 5 ∧ c.rising = decide (paramNat o 6 = 0) ∧ c.data.val = paramNat o 7
      ∧ c.select.map (fun l => (l.ch.val, l.active)) = (namedChannel o 8).map (fun ch => (ch, decide (paramNat o 9 = 1)))
      ∧ c.wordLength = paramNat o 10 ∧ c.msbFirst = decide (paramNat o 11 = 1)
  | .strobed c =>
    paramNat o 3 = 3 ∧ c.base.val = paramNat o 5 ∧ c.width = paramNat o 6 ∧ c.strobe.ch.val = paramNat o 7
      ∧ c.strobe.active = decide (paramNat o 8 = 1) ∧ handshakeOf (paramNat o 9) = some c.handshake
      ∧ c.minWidth = paramField o 10 2
      ∧ c.ack.map (fun a => (a.line.ch.val, a.line.active, a.timeout))
          = (namedChannel o 12).map (fun ch => (ch, decide (paramNat o 13 = 1), paramField o 14 2))
      ∧ c.selector.map Fin.val = namedChannel o 16 ∧ c.runPrefixing = decide (paramNat o 17 = 1)

/-- What a SET_DECODER sets is what its bytes hold (R102, R170). -/
def decoderReads (o : OrderPost) (x : DecoderOrder) : Prop :=
  x.slot.val = paramNat o 2 ∧ x.storeCopies = (paramByte o 4).getLsbD 0 ∧ x.stream = (paramByte o 4).getLsbD 1
    ∧ kindReads o x.kind

/-- Every field of a REDUCE is one that R137 takes. -/
def reduceFits (o : OrderPost) : Prop :=
  paramNat o 2 ≤ 2 ∧ paramField o 3 6 ≠ 2 ^ 47 ∧ 1 ≤ paramField o 9 6 ∧ paramField o 9 6 ≤ 2 ^ 40
    ∧ 1 ≤ paramField o 15 2 ∧ paramField o 15 2 ≤ 1024 ∧ paramWord o 17 ≠ 0 ∧ paramNat o 19 < 16

/-- The parameters of a REDUCE are what its bytes hold (R137, R170). -/
def reduceReads (o : OrderPost) (p : ReduceParams) : Prop :=
  referenceOf (paramNat o 2) = some p.reference
    ∧ p.offset = (paramField o 3 6 : Int) - (if paramField o 3 6 < 2 ^ 47 then 0 else 2 ^ 48)
    ∧ p.span = paramField o 9 6 ∧ p.columns = paramField o 15 2 ∧ p.channels = paramWord o 17
    ∧ p.slots.toNat = paramNat o 19 ∧ p.repeatCode = paramNat o 20

/-! ## Layouts -/

/-- Fields of given widths in bytes, each most significant byte first (R170). -/
def fieldBytes (fields : List (Nat × Nat)) : List Byte := fields.flatMap (fun f => beBytes f.1 f.2)

/-- A field that is marked absent holds all ones (R176). -/
def fieldOr (w : Nat) (n : Option Nat) : Nat × Nat := (w, n.getD (2 ^ (8 * w) - 1))

/-- A number in `w` bytes of two's complement (R170). -/
def signedField (w : Nat) (i : Int) : Nat × Nat := (w, (i % 2 ^ (8 * w)).toNat)

/-- The codes of R170 and R174. -/
def codesStand : Prop :=
  [Status.ok, .clamped, .state, .busy, .range, .conflict, .sequence, .check, .unknown, .length].map Status.code
      = [0, 1, 2, 3, 4, 5, 6, 7, 8, 9]
    ∧ [CapState.idle, .armed, .triggered, .done, .standby].map CapState.code = [0, 1, 2, 3, 4]
    ∧ [Reason.none, .depth, .storeLimit, .noTrigger, .aborted, .timeLimit].map Reason.code = [0, 1, 2, 3, 4, 5]
    ∧ [Source.signal, .notice, .answer, .columns, .stream, .records].map Source.cls = [1, 2, 4, 5, 6, 7]
    ∧ [NoticeKind.present, .fault, .triggered, .done, .loadTimeout, .decodeLoss, .stateOverrun, .epochSkipped,
        .activity].map NoticeKind.code = [0, 1, 2, 3, 4, 5, 6, 7, 8]

/-- The errors byte of a decode record (R170). -/
def DecodeErrors.number (e : DecodeErrors) : Nat :=
  16 * e.parity.toNat + 8 * e.framing.toNat + 4 * e.short.toNat + 2 * e.runt.toNat + e.stall.toNat

/-- Bytes 0 and 1 of a decode record (R170): slot, kind and bits - 1, then the repeat field. -/
def DecodeRecord.front (r : DecodeRecord) : List (Nat × Nat) :=
  [(1, r.slot.val * 64 + (match r.kind with | .data => 0 | .command => 16 | .brk => 32) + (r.bits - 1)),
    (1, match r.runCount with | none => 0 | some n => 128 + (n - 1))]

/-- The 16 bytes of a decode record in a STREAM post (R170). -/
def QueuedRecord.fields (q : QueuedRecord) : List (Nat × Nat) :=
  q.body.front
    ++ [(1, q.body.errors.number), (1, q.lostBefore), (2, q.body.value.toNat), (6, q.body.start), (4, q.body.duration)]

/-- The cause byte of a TRIGGER record (R170). -/
def Cause.number : Cause → Nat
  | .forced => 128
  | .stage st branch => (match branch with | .primary => 0 | .alternate => 8) + st.val

/-- The 15 bytes of a store record in a RECORDS post (R170). -/
def Record.fields : Record → List (Nat × Nat)
  | .run r =>
    match r.lastTick with
    | none => [(1, 0x00), (2, r.value.toNat), (2, r.mask.toNat), (6, r.start), (2, r.length), (2, 0)]
    | some last =>
      [(1, 0x10), (2, r.value.toNat), (6, r.start), (2, r.length), (4, min (2 ^ 32 - 1) (last - r.start))]
  | .trigger tick cause => [(1, 0x20), (6, tick), (1, cause.number), (7, 0)]
  | .stage tick before after branch =>
    [(1, 0x40), (6, tick), (1, before.val), (1, after.val), (1, match branch with | .primary => 0 | .alternate => 1), (5, 0)]
  | .signalIn tick receipt sender flags origin =>
    [(1, 0x60 + sender.val), (6, receipt), (6, origin), (1, flags.toNat), (1, min 255 (tick - receipt))]
  | .stateOverrun tick missed => [(1, 0x80), (6, tick), (2, missed), (6, 0)]
  | .decode r _ =>
    [(1, 0xA0 + r.errors.number)] ++ r.front ++ [(2, r.value.toNat), (6, r.start), (4, r.duration)]

/-- The fault fields of the FAULT notice (R170): zeros while the record is EMPTY. -/
def faultNumbers (r : Option FaultRecord) : List (Nat × Nat) :=
  match r with
  | none => [(10, 0)]
  | some f => [(1, 1), (6, f.tick), (1, f.postClass), (1, f.capture.code.toNat), (1, f.further)]

/-- The payload of a NOTICE post of a pending kind (R170, R177, R178). -/
def State.noticeFields (s : State) (k : NoticeKind) : List (Nat × Nat) :=
  let n := s.orders.notices
  match k with
  | .present => [(1, 0), (1, s.link.station.val), (2, 0x1640), (1, 2), (1, s.link.rate.toNat)]
  | .fault => (1, 1) :: faultNumbers s.orders.fault
  | .triggered =>
    (1, 2) :: n.triggered.toList.flatMap (fun d => [(6, d.tick), (6, d.sequence), (1, d.cause.number)])
  | .done => [(1, 3), (1, (n.done.getD .none).code.toNat)]
  | .loadTimeout =>
    (1, 4) :: n.loadTimeout.toList.flatMap (fun d => [(1, d.owner.val), (1, d.total), (1, d.received)])
  | .decodeLoss => (1, 5) :: ([0, 1, 2, 3] : List (Fin 4)).map (fun d => (2, s.streamer.losses.get d))
  | .stateOverrun => [(1, 6)]
  | .epochSkipped => (1, 7) :: n.epochSkipped.toList.flatMap (fun d => [(1, d.sender.val), (6, d.t0), (6, d.receipt)])
  | .activity =>
    (1, 8) :: n.activity.toList.flatMap (fun d =>
      [(1, d.ch.val), (1, if d.rising then 0 else 1), (6, d.tick),
        (1, match d.result with | .none => 0 | .armed => 1 | .armFailed => 2), (1, d.cause)])

/-- The payloads of the posts (R170). -/
def payloadsStand : Prop :=
  (∀ a : Answer,
      a.payload = fieldBytes [(1, a.code.toNat), (1, a.tag.toNat), (1, a.status.code.toNat), (1, a.index)] ++ a.result)
    ∧ (∀ (s : State) (k : NoticeKind), s.noticePayload k = fieldBytes (s.noticeFields k))
    ∧ (∀ p : ColumnsPost,
        p.payload =
          fieldBytes [(1, p.pass), signedField 7 p.window, (2, p.first), (1, p.count),
            (1, match p.last with
              | none => 0
              | some .complete => 128
              | some .overtaken => 129
              | some .cancelled => 130
              | some .superseded => 131
              | some .discarded => 132)] ++ p.cells)
    ∧ (∀ q : QueuedRecord, q.bytes = fieldBytes q.fields)
    ∧ ∀ p : RecordsPost,
      p.payload =
        fieldBytes [(1, p.atEnd.toNat + 2 * p.overwritten.toNat + 4 * p.discarded.toNat + 8 * p.notFound.toNat),
          (1, p.records.length), (6, p.firstSeq)] ++ p.records.flatMap (fun r => fieldBytes r.fields)

/-! ## The result of a QUERY -/

/-- One counter (R76): mode, value, latch, indications. -/
def Counter.fields (c : Counter) : List (Nat × Nat) :=
  [(1, match c.settings.mode with | .off => 0 | .count => 1 | .period => 2 | .gated => 3 | .cascade => 4), (2, c.value),
    (2, c.latch), (1, c.expired.toNat + 2 * c.overflow.toNat + 4 * c.latchMark.toNat + 8 * c.gateOpen.toNat)]

/-- The next bit position, the bits held or the pending repeat of a slot (R121, log 16). -/
def Slot.progressNow (d : Slot) : Option Nat :=
  match d.kind, d.phase with
  | .async _, .inWord (.async _ _ next _) => some next
  | .clocked _, .inWord (.clocked _ held) => some held.length
  | .clocked _, _ => some 0
  | .strobed _, _ => d.pendingRun
  | _, _ => none

/-- The tick of s0 or the word's start tick (R121, log 16). -/
def Slot.wordStart (d : Slot) : Option Nat :=
  match d.phase with
  | .inWord (.async _ tick _ _) => some tick
  | .inWord (.clocked tick _) => some tick
  | .inWord (.strobed tick _ _) => some tick
  | _ => none

/-- One slot (R121). -/
def Slot.fields (d : Slot) : List (Nat × Nat) :=
  [(1, match d.kind with | .off => 0 | .async _ => 1 | .clocked _ => 2 | .strobed _ => 3),
    (1, d.storeCopies.toNat + 2 * d.stream.toNat + 4 * d.idleSeen.toNat),
    (1, match d.phase with | .stopped => 0 | .hunting => 1 | .inWord _ => 2 | .recovering => 3), fieldOr 1 d.progressNow,
    fieldOr 6 d.wordStart]

/-- A time in whole steps; a part of a step counts as one when `up` says so (log 15). -/
def inSteps (ticks step : Nat) (up : Bool) : Nat := if up = true ∧ ticks % step ≠ 0 then ticks / step + 1 else ticks / step

/-- The fields of the part that a QUERY's code names, from byte 20 on (R176: R58, R6 and R14; R31; R76; R98; R121; R134; R153;
R169). `up` rounds the ages given in steps (log 15); a field whose item is not there is absent (log 16). -/
def State.partFields (s : State) (up : Bool) (code : Nat) : List (Nat × Nat) :=
  let modeCode (m : SampleMode) : Nat := match m with | .timing => 0 | .state => 1
  let station (x : Option Station) : Nat × Nat := (1, (x.map Fin.val).getD 15)
  let four : List (Fin 4) := [0, 1, 2, 3]
  let empty := s.store.records.isEmpty
  let oldest := s.store.nextSeq - s.store.records.length
  let load := s.seq.load
  match code with
  | 0 =>
    [(4, s.capture.postDepth), (4, s.capture.countdown), (2, s.capture.armLimit),
      fieldOr 6 (s.capture.armTimer.map (fun expiry => expiry - s.time.tick)), (1, s.capture.forcePending.toNat),
      station s.orders.reportStation, (1, modeCode s.sampler.settings.mode), (2, s.sampler.settings.divisor - 1),
      (1, modeCode s.sampler.record.mode), (2, s.sampler.record.divisor - 1), (2, s.sampler.missed)]
  | 1 =>
    [(3, s.store.records.length), fieldOr 6 (if empty then none else some oldest),
      fieldOr 6 (if empty then none else some (s.store.nextSeq - 1)),
      fieldOr 6 (s.store.trigger.map TriggerPosition.sequence), fieldOr 3 (s.store.trigger.map TriggerPosition.n0),
      (2, s.store.floor), fieldOr 6 s.store.lastRef,
      (1, match s.readout with | .free => 0 | .building _ => 1 | .walking _ => 2 | .holding _ => 3)]
  | 2 =>
    four.flatMap (fun k => (s.counters.k.get k).fields)
      ++ [(1, s.counters.cascade01.toNat + 2 * s.counters.cascade23.toNat)]
  | 3 =>
    [(1, s.seq.stage.val), (3, s.seq.primaryCount),
      fieldOr 3 (match s.seq.program[s.seq.stage.val]? with
        | some ⟨_, some _⟩ => some s.seq.alternateCount
        | _ => none),
      (1, s.seq.heard.toNat), (1, s.seq.program.length), (1, s.seq.isDefault.toNat), (1, load.isSome.toNat),
      station (load.map Load.owner), fieldOr 1 (load.map Load.total), fieldOr 1 (load.map Load.stages),
      fieldOr 1 (load.map (fun l => l.staged.length))]
  | 4 => four.flatMap (fun d => (s.decoders.slots.get d).fields)
  | 5 =>
    [(1, s.streamer.on.toNat), station s.streamer.dest, (1, s.streamer.batch.toNat), (1, s.streamer.threshold),
      (1, s.streamer.timeout), (1, s.streamer.queue.length),
      fieldOr 1 (s.streamer.queue.head?.map (fun r => min 255 (inSteps (s.time.elapsed - r.entry) 40000 up)))]
      ++ four.map (fun d => (2, s.streamer.losses.get d))
  | 6 =>
    (match s.columns.current with
      | none =>
        [(1, 0), station none, fieldOr 1 none, fieldOr 2 none, fieldOr 1 none, fieldOr 7 none, fieldOr 6 none, fieldOr 6 none,
          fieldOr 1 none, (2, s.columns.nextColumn), fieldOr 1 none]
      | some r =>
        [(1, match r.phase with | .starting => 1 | .passing => 2 | .closing => 3 | .waiting _ => 4), (1, r.owner.val),
          (1, r.pass), (2, min r.params.columns r.params.span),
          (1, (channelsOf r.params.channels).length + (slotsOf r.params.slots).length), signedField 7 r.snapshot.window,
          (6, r.snapshot.horizon), fieldOr 6 r.snapshot.floor, (1, r.snapshot.live.toNat), (2, s.columns.nextColumn),
          fieldOr 1 (match r.phase with
            | .waiting expiry => some (inSteps (expiry - s.time.elapsed) 4000000 up)
            | _ => none)])
      ++ [(1, s.columns.outgoing.length)]
  | _ =>
    [(1, s.link.strapReading.toNat), (1, s.link.station.val), (1, s.link.rate.toNat), (1, s.link.collisions),
      (1, s.link.retryWait.toNat), (1, s.link.pendingPart.flags.toNat), fieldOr 6 s.link.pendingPart.origin]

/-! ## Program images -/

/-- Two bytes as a number, high byte first. -/
def pairOf (hi lo : Byte) : Nat := hi.toNat * 256 + lo.toNat

/-- The bytes lay out a condition (R78, R96, R170). Bits that the layout leaves unnamed, or shows as zero, are not looked at
(log 17). -/
def Condition.laidOut (bytes : List Byte) : Condition → Prop
  | .always => ∃ b : Byte, bytes = [b] ∧ b.toNat / 32 = 0
  | .pattern value mask hold =>
    ∃ b v1 v0 m1 m0 h1 h0 : Byte, bytes = [b, v1, v0, m1, m0, h1, h0] ∧ b.toNat / 32 = 1 ∧ value.toNat = pairOf v1 v0
      ∧ mask.toNat = pairOf m1 m0 ∧ hold = pairOf h1 h0 + 1
  | .edge ch dir =>
    ∃ b e : Byte, bytes = [b, e] ∧ b.toNat / 32 = 2 ∧ ch.val = e.toNat % 16
      ∧ e.toNat / 16 % 4 = (match dir with | .rising => 0 | .falling => 1 | .either => 2)
  | .decode slot kind value mask errors =>
    ∃ b k v1 v0 m1 m0 : Byte, bytes = [b, k, v1, v0, m1, m0] ∧ b.toNat / 32 = 3 ∧ slot.val = b.toNat % 4
      ∧ k.toNat / 4 % 4 = (match kind with | .data => 0 | .command => 1 | .brk => 2)
      ∧ k.toNat % 4 = (match errors with | .any => 0 | .none => 1 | .some => 2)
      ∧ value.toNat = pairOf v1 v0 ∧ mask.toNat = pairOf m1 m0
  | .counter k range =>
    ∃ (b : Byte) (rest : List Byte), bytes = b :: rest ∧ b.toNat / 32 = 4 ∧ k.val = b.toNat % 4
      ∧ match range with
        | none => b.toNat / 4 % 2 = 0 ∧ rest = []
        | some (lo, hi) =>
          b.toNat / 4 % 2 = 1
            ∧ ∃ l3 l2 l1 l0 h3 h2 h1 h0 : Byte, rest = [l3, l2, l1, l0, h3, h2, h1, h0]
              ∧ lo = pairOf l3 l2 * 65536 + pairOf l1 l0 ∧ hi = pairOf h3 h2 * 65536 + pairOf h1 h0
  | .flag flags all =>
    ∃ b f : Byte, bytes = [b, f] ∧ b.toNat / 32 = 5 ∧ f ≠ 0 ∧ flags = f ∧ all = decide (b.toNat % 2 = 1)

/-- The bytes lay out a branch of a program of `stages` stages (R77, R96, R170). -/
def Branch.laidOut (stages : Nat) (bytes : List Byte) (b : Branch) : Prop :=
  ∃ (b0 n1 n0 raises b4 : Byte) (first second : List Byte), bytes = b0 :: n1 :: n0 :: raises :: b4 :: (first ++ second)
    ∧ b0.toNat / 64 = (match b.combiner with | .a => 0 | .aAndB => 1 | .aOrB => 2 | .aAndNotB => 3)
    ∧ b.countsSamples = decide (b0.toNat / 32 % 2 = 1) ∧ b.trigger = decide (b0.toNat / 16 % 2 = 1)
    ∧ b.marker = decide (b0.toNat / 8 % 2 = 1) ∧ b.nextStage.val = b0.toNat % 8 ∧ b0.toNat % 8 < stages
    ∧ b.count = pairOf n1 n0 + 1 ∧ b.raises = raises ∧ b.restarts.toNat = b4.toNat % 16
    ∧ b.condA.laidOut first
    ∧ (b4.toNat < 128 → b.condB = none ∧ second = [] ∧ b.combiner = .a)
    ∧ (128 ≤ b4.toNat → ∃ c, b.condB = some c ∧ c.laidOut second)

/-- The bytes lay out a stage record (R77, R170). -/
def Stage.laidOut (stages : Nat) (bytes : List Byte) (st : Stage) : Prop :=
  ∃ (b : Byte) (first second : List Byte), bytes = b :: (first ++ second) ∧ st.primary.laidOut stages first
    ∧ (b.toNat % 2 = 0 → st.alternate = none ∧ second = [])
    ∧ (b.toNat % 2 = 1 → ∃ a, st.alternate = some a ∧ a.laidOut stages second)

/-- The bytes lay out stages one after the other (R96). -/
def stagesLaidOut (stages : Nat) : List Byte → List Stage → Prop
  | bytes, [] => bytes = []
  | bytes, st :: rest => ∃ one more, bytes = one ++ more ∧ st.laidOut stages one ∧ stagesLaidOut stages more rest

/-- The image holds the program: the records of all declared stages, and the check byte (R96). -/
def imageHolds (stages : Nat) (image : List Byte) (program : List Stage) : Prop :=
  program.length = stages ∧ stagesLaidOut stages image.dropLast program

/-- Stage `i` of the image is the first that fails (R96): no stage record stands where its record should, within the bytes before
the check byte; or it is the last one, and the records of all stages end before the check byte. -/
def imageFailsAt (stages : Nat) (image : List Byte) (i : Nat) : Prop :=
  ∃ (read rest : List Byte) (program : List Stage), image.dropLast = read ++ rest ∧ stagesLaidOut stages read program
    ∧ ((i < stages ∧ program.length = i ∧ ∀ one more st, rest = one ++ more → ¬Stage.laidOut stages one st)
      ∨ (i = stages - 1 ∧ program.length = stages ∧ rest ≠ []))

/-! ## Selections and criteria -/

/-- The start selection that a READ_RECORDS carries (R33, R170). -/
def selectionReads (o : OrderPost) : Selection → Prop
  | .atSeq seq => paramNat o 2 = 0 ∧ seq = paramField o 3 6
  | .oldest => paramNat o 2 = 1
  | .newest => paramNat o 2 = 2
  | .trigger => paramNat o 2 = 3
  | .same => paramNat o 2 = 4
  | .next => paramNat o 2 = 5
  | .previous => paramNat o 2 = 6

/-- The direction and the criterion that a SEARCH carries (R37, R170); only the bytes that the criterion reads are judged
(R171, log 18). -/
def searchReads (o : OrderPost) (d : Direction) (c : Criterion) : Prop :=
  paramNat o 2 = (match d with | .forward => 0 | .backward => 1)
    ∧ match c with
      | .runPattern pattern mask => paramNat o 3 = 0 ∧ pattern = paramWord o 6 ∧ mask = paramWord o 8
      | .decodeWord slot kind value mask =>
        paramNat o 3 = 1 ∧ slot.val = paramNat o 4
          ∧ paramNat o 5 = (match kind with | .data => 0 | .command => 1 | .brk => 2)
          ∧ value = paramWord o 6 ∧ mask = paramWord o 8
      | .marker kind =>
        paramNat o 3 = 2
          ∧ paramNat o 5 = (match kind with | .trigger => 0 | .stage => 1 | .signalIn => 2 | .stateOverrun => 3)

/-- Two values agree in the positions of a mask (R37, R79, R80). -/
def agree (mask x y : BitVec 16) : Prop := ∀ n < 16, mask.getLsbD n = true → x.getLsbD n = y.getLsbD n

/-- A record matches a criterion (R37). -/
def Criterion.matches (r : Record) : Criterion → Prop
  | .runPattern pattern mask => ∃ x, r = .run x ∧ agree mask x.value pattern
  | .decodeWord slot kind value mask =>
    ∃ d close, r = .decode d close ∧ d.slot = slot ∧ d.kind = kind ∧ agree mask d.value value
  | .marker .trigger => ∃ tick cause, r = .trigger tick cause
  | .marker .stage => ∃ tick before after branch, r = .stage tick before after branch
  | .marker .signalIn => ∃ tick receipt sender flags origin, r = .signalIn tick receipt sender flags origin
  | .marker .stateOverrun => ∃ tick missed, r = .stateOverrun tick missed

/-! ## Arm checks -/

/-- The settings of a slot name the channel (R42, check 5). -/
def DecoderKind.names (ch : Channel) : DecoderKind → Prop
  | .off => False
  | .async c => ch = c.data
  | .clocked c => ch = c.clock ∨ ch = c.data ∨ c.select.map ActiveLine.ch = some ch
  | .strobed c =>
    (c.base.val ≤ ch.val ∧ ch.val < c.base.val + c.width) ∨ ch = c.strobe.ch
      ∨ c.ack.map (fun a => a.line.ch) = some ch ∨ c.selector = some ch

/-- The condition stands in a stage of the active program, as A or B of either branch (R42). -/
def Sequencer.holdsCondition (q : Sequencer) (c : Condition) : Prop :=
  ∃ st ∈ q.program, ∃ b : Branch, (b = st.primary ∨ st.alternate = some b) ∧ (b.condA = c ∨ b.condB = some c)

/-- The pair of a low and a high counter fails check 6 (R42). -/
def pairConflicts (cascade : Bool) (low high : CounterMode) : Prop :=
  (cascade = true ∧ high ≠ .cascade) ∨ (high = .cascade ∧ low ≠ .count ∧ low ≠ .period)

/-- Arm check `i` of R42 fails. -/
def State.failsArmCheck (s : State) (i : Nat) : Prop :=
  let enabled (ch : Channel) : Bool := s.pfe.enabled.getLsbD ch.val
  let mode (k : Fin 4) : CounterMode := (s.counters.k.get k).settings.mode
  match i with
  | 1 => s.sampler.settings.mode = .state ∧ ∃ d c, (s.decoders.slots.get d).kind = .async c
  | 2 => ∃ d kind v m e, s.seq.holdsCondition (.decode d kind v m e) ∧ (s.decoders.slots.get d).kind = .off
  | 3 => ∃ k range, s.seq.holdsCondition (.counter k range) ∧ mode k = .off
  | 4 => ∃ k, mode k ≠ .off
      ∧ (((s.counters.k.get k).settings.source = .edge ∧ enabled (s.counters.k.get k).settings.sourceChannel = false)
        ∨ (mode k = .period ∧ (enabled (s.counters.k.get k).settings.periodChannel = false
            ∨ (s.counters.k.get k).settings.source = .edge)))
  | 5 => ∃ d ch, (s.decoders.slots.get d).kind.names ch ∧ enabled ch = false
  | 6 => pairConflicts s.counters.cascade01 (mode 0) (mode 1) ∨ pairConflicts s.counters.cascade23 (mode 2) (mode 3)
  | _ => False

/-! ## Walks -/

/-- The sequence number is retained: it lies from the oldest to the newest (R20). -/
def Store.keeps (st : Store) (q : Nat) : Prop := st.nextSeq - st.records.length ≤ q ∧ q < st.nextSeq

/-- The sequence `q` lies beyond `r` in the direction. -/
def Direction.beyond (d : Direction) (r q : Nat) : Prop :=
  match d with
  | .forward => r < q
  | .backward => q < r

/-- A walk begins at `q` (R38): the first retained record in its direction, beyond the pointer where there is one. -/
def Store.walkBegins (st : Store) (d : Direction) (q : Nat) : Prop :=
  let eligible (n : Nat) : Prop := st.keeps n ∧ ∀ r, st.lastRef = some r → d.beyond r n
  eligible q ∧ ∀ n, eligible n → ¬d.beyond n q

/-- A walk ends at `q` (R38): the first retained record from its start on, in its direction, that meets the criterion. -/
def Store.walkEnds (st : Store) (j : WalkJob) (q : Nat) : Prop :=
  let matching (n : Nat) : Prop :=
    st.keeps n ∧ ¬j.direction.beyond n j.start ∧ ∃ r, st.recordAt n = some r ∧ j.criterion.matches r
  matching q ∧ ∀ n, matching n → ¬j.direction.beyond n q

/-! ## Passes -/

/-- A record's close tick (R20), D being the divisor of the capture sampling record. -/
def Record.closes (d : Nat) : Record → Nat
  | .run r =>
    match r.lastTick with
    | some last => last
    | none => r.start + r.length * d - 1
  | .trigger tick _ | .stage tick _ _ _ | .signalIn tick _ _ _ _ | .stateOverrun tick _ | .decode _ tick => tick

/-- The reference of a REDUCE cannot be read (R137). -/
def State.lacksReference (s : State) (p : ReduceParams) : Prop :=
  s.store.records = [] ∨ (p.reference = .trigger ∧ s.store.trigger = none)
    ∨ (p.reference = .newest ∧ ∀ r, Record.run r ∉ s.store.records)

/-- What a snapshot taken now holds (R139, R140). `before` is the W of the pass before, which a reference that is not there keeps.
`n` records close before W: the one after them is the floor. -/
def State.SnapshotHolds (s : State) (p : ReduceParams) (before : Int) (sn : Snapshot) : Prop :=
  let records := s.store.records
  let d := s.sampler.record.divisor
  (p.reference = .epoch → sn.window = p.offset)
    ∧ (∀ (tick : Nat) (cause : Cause), p.reference = .trigger → Record.trigger tick cause ∈ records →
        (∀ tick' cause', Record.trigger tick' cause' ∈ records → tick' = tick) → sn.window = tick + p.offset)
    ∧ (p.reference = .trigger → (∀ tick cause, Record.trigger tick cause ∉ records) → sn.window = before)
    ∧ (∀ (i : Nat) (r : Run), p.reference = .newest → records[i]? = some (.run r) →
        (∀ (j : Nat) (r' : Run), records[j]? = some (.run r') → j ≤ i) → sn.window = (Record.run r).closes d + p.offset)
    ∧ (p.reference = .newest → (∀ r, Record.run r ∉ records) → sn.window = before)
    ∧ sn.horizon = s.store.nextSeq - 1 ∧ sn.live = s.capturing
    ∧ ∃ n ≤ records.length, (∀ i r, i < n → records[i]? = some r → (r.closes d : Int) < sn.window)
      ∧ (∀ r, records[n]? = some r → sn.window ≤ r.closes d)
      ∧ sn.floor = (if n < records.length then some (s.store.nextSeq - records.length + n) else none)
      ∧ (∀ (i : Nat) (r : Run), i < n → records[i]? = some (.run r) →
          (∀ (j : Nat) (r' : Run), j < n → records[j]? = some (.run r') → j ≤ i) →
          sn.predecessor =
            some ⟨r.value, if s.sampler.record.mode = .timing then some ((Record.run r).closes d) else none⟩)
      ∧ ((∀ (i : Nat) (r : Run), i < n → records[i]? ≠ some (.run r)) → sn.predecessor = none)

/-- The records that a pass considers: from the floor to the horizon (R140). -/
def State.considered (s : State) (sn : Snapshot) : List Record :=
  let floor := sn.floor.getD (sn.horizon + 1)
  (s.store.records.drop (floor - (s.store.nextSeq - s.store.records.length))).take (sn.horizon + 1 - floor)

/-- What a pass sees of the store as it stands: the coverage of its RUNs (R141; no tick above 2^48-1 is covered, R139), the
channels with an edge at each RUN's start (R143), the DECODE copies, and the copy set of R144. -/
def State.ViewHolds (s : State) (sn : Snapshot) (v : PassView) : Prop :=
  let d := s.sampler.record.divisor
  let timing := s.sampler.record.mode = .timing
  ∃ runs : List Run, runs.map .run = (s.considered sn).filter (fun r => match r with | .run _ => true | _ => false)
    ∧ v.covers.length = runs.length ∧ v.edges.length = runs.length
    ∧ (∀ i r, runs[i]? = some r →
        (∀ r', runs[i + 1]? = some r' →
            v.covers[i]? = some ⟨r, r.start, if timing then (Record.run r).closes d else r'.start - 1⟩)
          ∧ (runs[i + 1]? = none → v.covers[i]? = some ⟨r, r.start, min (2 ^ 48 - 1) ((Record.run r).closes d)⟩)
          ∧ ∃ changed, v.edges[i]? = some (r.start, changed)
            ∧ ∀ ch < 16, changed.getLsbD ch = true ↔
              (∃ p, i = 0 ∧ sn.predecessor = some p ∧ (∀ t, p.lastTick = some t → t + 1 = r.start)
                  ∧ p.value.getLsbD ch ≠ r.value.getLsbD ch)
                ∨ ∃ j p, i = j + 1 ∧ runs[j]? = some p ∧ (timing → (Record.run p).closes d + 1 = r.start)
                  ∧ p.value.getLsbD ch ≠ r.value.getLsbD ch)
    ∧ v.copies.map (fun c => Record.decode c.1 c.2)
        = (s.considered sn).filter (fun r => match r with | .decode _ _ => true | _ => false)
    ∧ v.copySet = s.decoders.copySet

/-! ## COLUMNS posts -/

/-- A channel cell, for the ticks from `lo` to before `hi` (R142, R143, R170): bits 6 and 7 for ticks covered LOW and HIGH, bit 5
GLITCH, bit 4 PARTIAL, bits 3 to 0 the edge count. -/
def PassView.isChannelCell (v : PassView) (lo hi : Int) (ch : Channel) (b : Byte) : Prop :=
  let reaches (c : Cover) : Prop := c ∈ v.covers ∧ (c.first : Int) < hi ∧ lo ≤ (c.last : Int)
  (b.getLsbD 6 = true ↔ ∃ c, reaches c ∧ c.run.value.getLsbD ch.val = false)
    ∧ (b.getLsbD 7 = true ↔ ∃ c, reaches c ∧ c.run.value.getLsbD ch.val = true)
    ∧ (b.getLsbD 5 = true ↔ ∃ c, reaches c ∧ c.run.mask.getLsbD ch.val = true)
    ∧ (b.getLsbD 4 = true ↔
        (∃ c, reaches c) ∧ (((v.covers.filter (fun c => c.meets lo hi)).map (fun c => c.share lo hi)).sum : Int) < hi - lo)
    ∧ b.toNat % 16 = min 15 ((v.edges.filter (fun e =>
        decide (lo ≤ (e.1 : Int) ∧ (e.1 : Int) < hi) && e.2.getLsbD ch.val)).length)

/-- A decoder cell, for the ticks from `lo` to before `hi` (R144, R170): bit 7 NO_DATA, bit 6 CONTINUES, bit 5 ERROR, bits 3 to 0
the count. A copy spans the ticks from its start to its end. -/
def PassView.isSlotCell (v : PassView) (lo hi : Int) (slot : Fin 4) (b : Byte) : Prop :=
  let spans (c : DecodeRecord × Nat) : Prop :=
    c ∈ v.copies ∧ c.1.slot = slot ∧ (c.1.start : Int) < hi ∧ lo ≤ (c.2 : Int)
  (v.copySet.getLsbD slot.val = false → b = 0x80)
    ∧ (v.copySet.getLsbD slot.val = true →
        b.getLsbD 7 = false ∧ b.getLsbD 4 = false
          ∧ (b.getLsbD 6 = true ↔ ∃ c, spans c ∧ (c.1.start : Int) < lo)
          ∧ (b.getLsbD 5 = true ↔ ∃ c, spans c ∧ c.1.errors ≠ {})
          ∧ b.toNat % 16 = min 15 ((v.copies.filter (fun c =>
              c.1.slot == slot && decide (lo ≤ (c.1.start : Int) ∧ (c.1.start : Int) < hi))).length))

/-- The post that the engine composes for a pass of `r` from column `first` on (R139, R145): header, as many whole columns as
112 cells hold, LAST and COMPLETE with column N' - 1, and the cells, channels before slots. -/
structure Reduction.composes (s : State) (r : Reduction) (first : Nat) (post : ColumnsPost) : Prop where
  header : post.dest = r.owner ∧ post.ofCurrent = true ∧ post.pass = r.pass ∧ post.window = r.snapshot.window
    ∧ post.first = first
  count : post.count = min (112 / ((channelsOf r.params.channels).length + (slotsOf r.params.slots).length))
    (min r.params.columns r.params.span - first)
  last : post.last = if min r.params.columns r.params.span ≤ first + post.count then some .complete else none
  cells : ∀ i < post.count,
    let width := min r.params.columns r.params.span
    let tick (c : Nat) : Int := r.snapshot.window + ((c * r.params.span + width - 1) / width : Nat)
    let cell (j : Nat) : Byte :=
      post.cells.getD (i * ((channelsOf r.params.channels).length + (slotsOf r.params.slots).length) + j) 0
    (∀ j ch, (channelsOf r.params.channels)[j]? = some ch →
        (s.passView r.snapshot).isChannelCell (tick (first + i)) (tick (first + i + 1)) ch (cell j))
      ∧ ∀ j slot, (slotsOf r.params.slots)[j]? = some slot →
        (s.passView r.snapshot).isSlotCell (tick (first + i)) (tick (first + i + 1)) slot
          (cell ((channelsOf r.params.channels).length + j))
  length : post.cells.length =
    post.count * ((channelsOf r.params.channels).length + (slotsOf r.params.slots).length)

/-- The reduction in the phase that a composed post gives it (R145). -/
def Reduction.after (r : Reduction) (post : ColumnsPost) : Reduction :=
  { r with phase := if post.last.isSome then .closing else .passing }

/-- The outgoing list when the current reduction `r` ends CANCELLED, SUPERSEDED or DISCARDED, by its phase (R147). The W of a
next pass under a NEWEST reference, which was never reckoned, is `free` (log 14). -/
def ColumnEngine.endedList (e : ColumnEngine) (r : Reduction) (why : EndReason) (free : Int) : List ColumnsPost :=
  let next : ColumnsPost :=
    ⟨r.owner, false, (r.pass + 1) % 256, if r.params.reference = .newest then free else r.snapshot.window, 0, 0, [],
      some why⟩
  e.outgoing.map (fun p => { p with ofCurrent := false })
    ++ match r.phase with
      | .starting => []
      | .passing => [⟨r.owner, false, r.pass, r.snapshot.window, e.nextColumn, 0, [], some why⟩]
      | .closing => if r.params.repeatCode ≠ 0 ∧ r.snapshot.live = true then [next] else []
      | .waiting _ => [next]

/-! ## The decode queue -/

/-- The loss counts after records were removed from the queue (R132): each adds 1 and the lost-before figure it carried. -/
def lossesAfter (losses : Quad Nat) (removed : List QueuedRecord) (t : Quad Nat) : Prop :=
  ∀ d, losses.get d ≤ 65535 →
    t.get d = min 65535 (losses.get d + ((removed.filter (fun r => r.body.slot == d)).map (fun r => 1 + r.lostBefore)).sum)

/-- The oldest queued record has reached the age W x 100 us (R129). -/
def Streamer.aged (st : Streamer) (now : Nat) : Prop :=
  ∃ r rest, st.queue = r :: rest ∧ st.timeout * 40000 ≤ now - r.entry

/-- The notice set after an event that lost records, or none (R125, R132, R177). -/
def NoticeSet.withLoss (n : NoticeSet) (lost : Prop) [Decidable lost] : NoticeSet :=
  if lost then { n with decodeLoss := true, setAgain := n.setAgain || n.flying == some .decodeLoss } else n

/-- What a discard leaves of the Streamer and of the notice set (R43, R49, R132): the records in flight stay, marked. -/
structure Discarded (s t : State) : Prop where
  streamer : t.streamer = { s.streamer with
    queue := s.streamer.queue.take s.streamer.inFlight, losses := t.streamer.losses,
    discardMarked := decide (0 < s.streamer.inFlight), ageReached := t.streamer.ageReached, lostNow := [] }
  losses : lossesAfter s.streamer.losses (s.streamer.queue.drop s.streamer.inFlight) t.streamer.losses
  age : t.streamer.ageReached = true ↔ t.streamer.aged s.time.elapsed

/-- How one completed decode record meets the Streamer (R124, R125): it is not queued while its slot's stream setting or streaming
is off; it joins with its slot's loss count, which goes to 0, while the queue has place; else it is lost, and counts. The records
lost at one instant are kept while it lasts (log 40). `lost` tells which. -/
def Streamer.meets (st : Streamer) (streams : Bool) (now : Nat) (r : DecodeRecord) (after : Streamer) (lost : Bool) : Prop :=
  if streams = false ∨ st.on = false then after = st ∧ lost = false
  else if st.queue.length < 64 then
    after = { st with
        queue := st.queue ++ [⟨r, min 255 (st.losses.get r.slot), now⟩], losses := st.losses.set r.slot 0 }
      ∧ lost = false
  else
    after = { st with
        losses := st.losses.set r.slot (min 65535 (st.losses.get r.slot + 1))
        lostNow := st.lostNow.filter (fun x => x.time == now) ++ [⟨r, st.losses.get r.slot, now⟩] }
      ∧ lost = true

/-- The records of a sample meet the Streamer one after the other (R101, R123). `lost` tells whether any was lost. -/
def Streamer.meetsAll (streams : Fin 4 → Bool) (now : Nat) : List DecodeRecord → Streamer → Streamer × Bool → Prop
  | [], st, after => after = (st, false)
  | r :: rest, st, after =>
    ∃ next lost more, st.meets (streams r.slot) now r next lost ∧ Streamer.meetsAll streams now rest next (after.1, more)
      ∧ after.2 = (lost || more)

/-! ## Arming -/

/-- What a taken ARM leaves (R43), but for the report station and what the order itself leaves: with the readout's end (R36, R39),
the discarded decode queue (R132) and the reduction's end DISCARDED (R150; a W that was never reckoned: log 14). -/
structure ArmTaken (s t : State) : Prop where
  capture : t.capture = { s.capture with
    state := .armed
    reason := .none
    countdown := 0
    forcePending := false
    armTimer := if s.capture.armLimit = 0 then none else some (s.time.tick + s.capture.armLimit * 400000) }
  store : t.store = ⟨[], 0, s.store.floor, none, [], none⟩
  readout : t.readout =
    match s.readout with
    | .building j => .holding ⟨j.dest, j.firstSeq, j.copied, false, false, true, false⟩
    | .walking j => .holding ⟨j.dest, j.start, [], false, false, true, false⟩
    | .holding p => .holding p
    | .free => .free
  sampler : t.sampler = { State.reset.sampler with
    settings := s.sampler.settings, record := ⟨s.sampler.settings.mode, s.sampler.settings.divisor⟩ }
  counters : ∀ k, t.counters.k.get k =
    ⟨(s.counters.k.get k).settings, 0, 0, false, false, false, false, false, false, s.time.tick⟩
  cascades : t.counters.cascade01 = s.counters.cascade01 ∧ t.counters.cascade23 = s.counters.cascade23
  seq : t.seq = { s.seq with
    stage := 0, primaryCount := 0, alternateCount := 0, primaryPrev := none, alternatePrev := none, heard := 0,
    holds := s.seq.program.map (fun _ => ⟨⟨0, 0⟩, ⟨0, 0⟩⟩) }
  slots : ∀ d, t.decoders.slots.get d = { s.decoders.slots.get d with
    phase := if (s.decoders.slots.get d).kind = .off then .stopped else .hunting
    idleSeen := false
    pendingRun := none }
  copySet : ∀ d : Fin 4, t.decoders.copySet.getLsbD d.val
    = ((s.decoders.slots.get d).kind != .off && (s.decoders.slots.get d).storeCopies)
  discarded : Discarded s t
  noReduction : t.columns.current = none ∧ t.columns.nextColumn = 0
  outgoing : s.columns.current = none → t.columns.outgoing = s.columns.outgoing ∧ t.freeDraws = s.freeDraws
  ended : ∀ r, s.columns.current = some r → ∃ free, t.columns.outgoing = s.columns.endedList r .discarded free

/-! ## The words of the decoders -/

/-- The value of bits in the order they came (R108, R111): the k-th is bit k with LSB first, and bit length - 1 - k with MSB
first. -/
def isWord (msbFirst : Bool) (bits : List Bool) (value : BitVec 16) : Prop :=
  ∀ k < 16, value.getLsbD k = (if msbFirst then bits.reverse else bits).getD k false

/-- How an ASYNC slot waits for a start bit (R105): a sample at the idle level shows that idle was seen, and the first sample at
the other level after it is s0. -/
def AsyncSettings.huntsWell (c : AsyncSettings) : Prop :=
  ∀ (slot : Fin 4) (d : Slot) (x : Sample), d.phase = .hunting →
    (hasChannel x.value c.data = c.idle → c.step slot d x = ({ d with idleSeen := true }, none))
      ∧ (hasChannel x.value c.data ≠ c.idle → d.idleSeen = true →
          c.step slot d x = ({ d with phase := .inWord (.async x.index x.tick 0 []) }, none))
      ∧ (hasChannel x.value c.data ≠ c.idle → d.idleSeen = false → c.step slot d x = (d, none))

/-- How an ASYNC frame runs after its start bit and ends (R106, R108, R109). `read` are the bits read, 1 for the idle level. -/
def AsyncSettings.framesWell (c : AsyncSettings) : Prop :=
  ∀ (slot : Fin 4) (d : Slot) (x : Sample) (s0 s0Tick i : Nat) (read : List Bool),
    d.phase = .inWord (.async s0 s0Tick i read) → i ≠ 0 →
    let point := s0 + (2 * i + 1) * c.period / 32
    let parityBits := if c.parity = .none then 0 else 1
    let last := c.bits + parityBits + (if c.stop = .two then 2 else 1)
    let isIdle := hasChannel x.value c.data == c.idle
    let bits := read ++ [isIdle]
    let data := bits.take c.bits
    let ones := data.countP id + (bits.getD c.bits false).toNat
    let wrong : Bool := match c.parity with
      | .none => false
      | .even => ones % 2 == 1
      | .odd => ones % 2 == 0
      | .mark => !(bits.getD c.bits false)
      | .space => bits.getD c.bits false
    (x.index ≠ point → c.step slot d x = (d, none))
      ∧ (x.index = point → i ≠ last →
          c.step slot d x = ({ d with phase := .inWord (.async s0 s0Tick (i + 1) bits) }, none))
      ∧ (x.index = point → i = last →
          ∃ r, c.step slot d x = ({ d with phase := .hunting, idleSeen := isIdle }, some r)
            ∧ r.slot = slot ∧ r.bits = c.bits ∧ r.runCount = none ∧ r.start = s0Tick
            ∧ r.duration = min (x.tick - s0Tick) (2 ^ 32 - 1)
            ∧ ((∀ b ∈ bits, b = false) → r.kind = .brk ∧ r.value = 0 ∧ r.errors = {})
            ∧ (¬(∀ b ∈ bits, b = false) →
                r.kind = .data ∧ isWord c.msbFirst data r.value
                  ∧ r.errors = { parity := wrong, framing := (bits.drop (c.bits + parityBits)).any (!·) }))

/-- How a CLOCKED slot that decodes handles a sample (R111, R112). -/
def ClockedSettings.framesWell (c : ClockedSettings) : Prop :=
  ∀ (slot : Fin 4) (d : Slot) (x : Sample), d.phase ≠ .stopped →
    let selected := match c.select with | none => true | some l => hasChannel x.value l.ch == l.active
    let edge := hasChannel (if c.rising then x.rises else x.falls) c.clock
    let word : Nat × List Bool := match d.phase with | .inWord (.clocked start held) => (start, held) | _ => (x.tick, [])
    let bits := word.2 ++ [hasChannel x.value c.data]
    let made (held : List Bool) (short : Bool) (r : DecodeRecord) : Prop :=
      ∃ v, isWord c.msbFirst held v
        ∧ r = ⟨slot, .data, v, held.length, none, word.1, min (x.tick - word.1) (2 ^ 32 - 1), { short := short }⟩
    (selected = false → (∃ start held, d.phase = .inWord (.clocked start held)) →
        ∃ r, c.step slot d x = ({ d with phase := .hunting }, some r) ∧ made word.2 true r)
      ∧ (selected = false → (¬∃ start held, d.phase = .inWord (.clocked start held)) → c.step slot d x = (d, none))
      ∧ (selected = true → edge = false → c.step slot d x = (d, none))
      ∧ (selected = true → edge = true → bits.length ≠ c.wordLength →
          c.step slot d x = ({ d with phase := .inWord (.clocked word.1 bits) }, none))
      ∧ (selected = true → edge = true → bits.length = c.wordLength →
          ∃ r, c.step slot d x = ({ d with phase := .hunting }, some r) ∧ made bits false r)

/-- A STROBED word that completes meets run prefixing (R118): `d` is the slot but for its prefix. -/
def StrobedSettings.hands (c : StrobedSettings) (d : Slot) (r : DecodeRecord) : SlotStep :=
  if c.runPrefixing = false then (d, some r)
  else if r.kind = .data then ({ d with pendingRun := none }, some { r with runCount := some (d.pendingRun.getD 1) })
  else if r.errors = {} ∧ r.value.toNat < 128 then ({ d with pendingRun := some (r.value.toNat + 1) }, none)
  else (d, some r)

/-- How a STROBED slot handles a sample (R113 to R118). -/
def StrobedSettings.framesWell (c : StrobedSettings) : Prop :=
  ∀ (slot : Fin 4) (d : Slot) (x : Sample),
    let level := hasChannel x.value c.strobe.ch
    let toActive := hasChannel (if c.strobe.active then x.rises else x.falls) c.strobe.ch
    let toRest := hasChannel (if c.strobe.active then x.falls else x.rises) c.strobe.ch
    let acknowledged := match c.ack with
      | none => false
      | some a => hasChannel (if a.line.active then x.rises else x.falls) a.line.ch
    let timeout := match c.ack with | none => 0 | some a => a.timeout
    let kind : RecKind := match c.selector with
      | none => .data
      | some ch => if hasChannel x.value ch then .data else .command
    let rest : Phase := if level = c.strobe.active then .recovering else .hunting
    let word (start : Nat) (w : BitVec 16 × RecKind) (e : DecodeErrors) : DecodeRecord :=
      ⟨slot, w.2, w.1, c.width, none, start, min (x.tick - start) (2 ^ 32 - 1), e⟩
    ∃ value : BitVec 16, (∀ k < 16, value.getLsbD k = (decide (k < c.width) && x.value.getLsbD (c.base.val + k)))
      ∧ (d.phase = .hunting → x.index = 0 → level = c.strobe.active →
          c.step slot d x = ({ d with phase := .recovering }, none))
      ∧ (d.phase = .hunting → ¬(x.index = 0 ∧ level = c.strobe.active) → toActive = false → c.step slot d x = (d, none))
      ∧ (d.phase = .hunting → ¬(x.index = 0 ∧ level = c.strobe.active) → toActive = true →
          c.step slot d x =
            match c.handshake with
            | .leading => c.hands { d with phase := .recovering } (word x.tick (value, kind) {})
            | .trailing | .pulse => ({ d with phase := .inWord (.strobed x.tick x.index none) }, none)
            | .interlocked => ({ d with phase := .inWord (.strobed x.tick x.index (some (value, kind))) }, none))
      ∧ (d.phase = .recovering →
          c.step slot d x = (if toRest then { d with phase := .hunting } else d, none))
      ∧ (∀ start index, d.phase = .inWord (.strobed start index none) →
          c.step slot d x =
            if toRest then
              c.hands { d with phase := .hunting }
                (word start (value, kind) { runt := decide (c.handshake = .pulse ∧ x.index - index < c.minWidth) })
            else (d, none))
      ∧ ∀ start index w, d.phase = .inWord (.strobed start index (some w)) →
          (acknowledged = true → x.index ≤ index + timeout →
              c.step slot d x = c.hands { d with phase := rest } (word start w {}))
            ∧ (¬(acknowledged = true ∧ x.index ≤ index + timeout) → index + timeout ≤ x.index →
                c.step slot d x = c.hands { d with phase := rest } (word start w { stall := true }))
            ∧ (acknowledged = false → x.index < index + timeout → toActive = true →
                c.step slot d x =
                  c.hands { d with phase := .inWord (.strobed x.tick x.index (some (value, kind))) }
                    (word start w { stall := true }))
            ∧ (acknowledged = false → x.index < index + timeout → toActive = false → c.step slot d x = (d, none))

/-- What a slot does at a sample, by its kind (R100); one of kind OFF does nothing. -/
def Slot.handles (slot : Fin 4) (x : Sample) (d : Slot) : SlotStep :=
  match d.kind with
  | .off => (d, none)
  | .async c => c.step slot d x
  | .clocked c => c.step slot d x
  | .strobed c => c.step slot d x

/-- How the bank handles a sample: each slot by itself (R100), and the completed records in slot order (R101). A STOPPED slot does
nothing. The copy set stays (R144). -/
structure DecoderBank.HandlesWell (b : DecoderBank) (x : Sample) : Prop where
  slots : ∀ d, (b.handleSample x).slots.get d = ((b.slots.get d).handles d x).1
  copySet : (b.handleSample x).copySet = b.copySet
  completed : b.completed x = ([0, 1, 2, 3] : List (Fin 4)).filterMap (fun d => ((b.slots.get d).handles d x).2)
  stopped : ∀ d, (b.slots.get d).phase = .stopped → (b.slots.get d).handles d x = (b.slots.get d, none)

/-! ## Counters -/

/-- The pair of the counter runs as one 32-bit counter (R60). -/
def CounterBank.paired (b : CounterBank) (k : Fin 4) : Prop :=
  if k.val < 2 then b.cascade01 = true ∧ (b.k.get 1).settings.mode = .cascade
  else b.cascade23 = true ∧ (b.k.get 3).settings.mode = .cascade

/-- The counter has a TICK occurrence at the tick that is not counted yet (R61). -/
def Counter.ticksAt (c : Counter) (tick : Nat) : Bool :=
  match c.settings.source with
  | .tick1 => decide (c.countedTo < tick)
  | .tick16 => decide (c.countedTo < tick ∧ tick % 16 = 0)
  | .tick256 => decide (c.countedTo < tick ∧ tick % 256 = 0)
  | .tick4096 => decide (c.countedTo < tick ∧ tick % 4096 = 0)
  | .sample | .edge => false

/-- The edge set of the sample holds the channel in the direction (R61). -/
def Sample.showsEdge (x : Sample) (ch : Channel) (e : Edge) : Bool :=
  match e with
  | .rising => x.rises.getLsbD ch.val
  | .falling => x.falls.getLsbD ch.val
  | .either => x.rises.getLsbD ch.val || x.falls.getLsbD ch.val

/-- The sample brings an occurrence of the counter's source (R61): its own, or the TICK occurrence of its tick. -/
def Counter.occursAt (c : Counter) (x : Sample) : Bool :=
  match c.settings.source with
  | .sample => true
  | .edge => x.showsEdge c.settings.sourceChannel c.settings.sourceEdge
  | .tick1 | .tick16 | .tick256 | .tick4096 => c.ticksAt x.tick

/-- The sample shows the period edge of a PERIOD counter (R64). -/
def Counter.periodEdgeAt (c : Counter) (x : Sample) : Bool :=
  c.settings.mode == .period && x.showsEdge c.settings.periodChannel c.settings.periodEdge

/-- One occurrence, in a counter that stands alone (R63, R65, R66). -/
def Counter.counts (c : Counter) : Counter :=
  match c.settings.mode with
  | .off | .cascade => c
  | .count =>
    if c.settings.oneshot = true ∧ c.expired = true then c
    else if c.value + 1 < c.settings.reload then { c with value := c.value + 1 }
    else
      { c with
        value := if c.settings.oneshot then c.value else 0
        expired := true
        raised := c.raised || c.settings.select == .expiry }
  | .period | .gated =>
    if c.settings.mode = .gated ∧ c.gateOpen = false then c
    else if c.value + 1 < 65535 then { c with value := c.value + 1 }
    else if c.value + 1 = 65535 then
      { c with value := 65535, overflow := true, raised := c.raised || c.settings.select == .overflow }
    else c

/-- The next occurrence is the expiry of a COUNT counter that stands alone (R63). -/
def Counter.expiresNext (c : Counter) : Bool :=
  c.settings.mode == .count && !(c.settings.oneshot && c.expired) && decide (c.settings.reload ≤ c.value + 1)

/-- A capture (R64, R65, R66). -/
def Counter.captured (c : Counter) : Counter :=
  { c with
    latch := c.value, latchMark := c.overflow, value := 0, overflow := false,
    raised := c.raised || c.settings.select == .capture }

/-- A partner expiry acts on the gate, if one is due (R66, log 9): the first opens it, each later one closes a window. -/
def Counter.gateActs (c : Counter) : Counter :=
  if c.gateDue = false then c
  else if c.gateOpen then { c.captured with gateDue := false }
  else { c with gateOpen := true, gateDue := false }

/-- How a cascaded pair counts and captures (R68, R69; a PERIOD pair with Rc = 1: log 42): the low counter `l`, the high counter
`h`, what they become, whether an occurrence comes and whether a period edge does. -/
structure PairHandled (l h l' h' : Counter) (occurs edge : Bool) : Prop where
  low : l' = { l with
    value := l'.value, latch := l'.latch, expired := l'.expired, overflow := l'.overflow, latchMark := l'.latchMark,
    raised := l'.raised, countedTo := l'.countedTo }
  high : h' = { h with value := h'.value, latch := h'.latch, countedTo := h'.countedTo }
  halves : l.value < 65536 → l'.value < 65536
  count : l.settings.mode = .count →
    let v := h.value * 65536 + l.value
    let rc := (h.settings.reload - 1) * 65536 + l.settings.reload
    let counts := occurs && !(l.settings.oneshot && l.expired)
    let expires := counts && decide (rc ≤ v + 1)
    h'.value * 65536 + l'.value
        = (if counts = false then v else if v + 1 < rc then v + 1 else if l.settings.oneshot then v else 0)
      ∧ l'.expired = (l.expired || expires) ∧ l'.raised = (l.raised || (expires && l.settings.select == .expiry))
      ∧ l'.latch = l.latch ∧ h'.latch = h.latch ∧ l'.overflow = l.overflow ∧ l'.latchMark = l.latchMark
  period : l.settings.mode = .period →
    let v := h.value * 65536 + l.value
    let rc := (h.settings.reload - 1) * 65536 + l.settings.reload
    let reached := if occurs = true ∧ v + 1 ≤ rc - 1 then v + 1 else v
    let saturates := occurs && decide (v + 1 = rc - 1)
    let raised := l.raised || (saturates && l.settings.select == .overflow)
    l'.expired = l.expired
      ∧ (edge = false →
          h'.value * 65536 + l'.value = reached ∧ l'.overflow = (l.overflow || saturates) ∧ l'.raised = raised
            ∧ l'.latch = l.latch ∧ h'.latch = h.latch ∧ l'.latchMark = l.latchMark)
      ∧ (edge = true →
          h'.latch * 65536 + l'.latch = reached ∧ l'.latchMark = (l.overflow || saturates) ∧ h'.value = 0 ∧ l'.value = 0
            ∧ l'.overflow = false ∧ l'.raised = (raised || l.settings.select == .capture))

/-- How the bank handles a sample (R61, R64, R66, R71): occurrences, then gates (log 9), then period captures; and what it hands
the sequencer (R71). Of the high counter of a pair the sequencer sees nothing (R60). -/
structure CounterBank.HandlesWell (b : CounterBank) (x : Sample) : Prop where
  cascades : (b.handleSample x).cascade01 = b.cascade01 ∧ (b.handleSample x).cascade23 = b.cascade23
  alone : ∀ k, ¬b.paired k →
    let c := b.k.get k
    let p := b.k.get (partnerOf k)
    let counted := if c.occursAt x then c.counts else c
    let gated :=
      ({ counted with
          countedTo := if c.ticksAt x.tick then x.tick else c.countedTo
          gateDue := c.gateDue || (c.settings.mode == .gated && p.occursAt x && p.expiresNext) } : Counter).gateActs
    (b.handleSample x).k.get k = if c.periodEdgeAt x then gated.captured else gated
  paired : ∀ l h : Fin 4, (l = 0 ∧ h = 1) ∨ (l = 2 ∧ h = 3) → b.paired l →
    (b.k.get l).settings.mode = .count ∨ (b.k.get l).settings.mode = .period → (b.k.get l).gateDue = false →
    (b.k.get h).gateDue = false →
    PairHandled (b.k.get l) (b.k.get h) ((b.handleSample x).k.get l) ((b.handleSample x).k.get h)
      ((b.k.get l).occursAt x) ((b.k.get l).periodEdgeAt x)
  handed : ∀ k,
    let handled (j : Fin 4) : Counter := (b.handleSample x).k.get j
    (¬b.paired k → (b.handleSample x).events.get k = ⟨(handled k).raised, (handled k).latch, (handled k).latchMark⟩)
      ∧ (∀ l h : Fin 4, (l = 0 ∧ h = 1) ∨ (l = 2 ∧ h = 3) → b.paired k →
          (k = l → (b.handleSample x).events.get k =
              ⟨(handled l).raised, (handled h).latch * 65536 + (handled l).latch, (handled l).latchMark⟩)
            ∧ (k = h → ((b.handleSample x).events.get k).seen = false))

/-- What a RESTART of a set of counters leaves (R74): both halves of a pair that it names, and TICK occurrences after the tick. -/
structure CounterBank.RestartsWell (b : CounterBank) (set : BitVec 4) (tick : Nat) : Prop where
  cascades : (b.restart set tick).cascade01 = b.cascade01 ∧ (b.restart set tick).cascade23 = b.cascade23
  named : ∀ k : Fin 4, set.getLsbD k.val = true ∨ (b.paired k ∧ set.getLsbD (partnerOf k).val = true) →
    (b.restart set tick).k.get k = ⟨(b.k.get k).settings, 0, 0, false, false, false, false, false, false, tick⟩
  unnamed : ∀ k : Fin 4, ¬(set.getLsbD k.val = true ∨ (b.paired k ∧ set.getLsbD (partnerOf k).val = true)) →
    (b.restart set tick).k.get k = b.k.get k

/-- What a capture end leaves of the counters (R50, R66, R73): everything, but that partner expiries already counted act on their
gates (log 9). -/
structure CountersStopped (b b' : CounterBank) : Prop where
  cascades : b'.cascade01 = b.cascade01 ∧ b'.cascade23 = b.cascade23
  counters : ∀ k, ¬b.paired k ∨ ((b.k.get k).gateDue = false ∧ (b.k.get (partnerOf k)).gateDue = false) →
    b'.k.get k = (b.k.get k).gateActs

/-! ## Conditions -/

/-- A condition is true at a sample (R78, R80), given the heard-flag set and its hold count after the sample. -/
def Condition.holdsAt (i : SeqInputs) (heard : FlagSet) (hold : Nat) : Condition → Prop
  | .always => True
  | .pattern _ _ h => h ≤ hold
  | .edge ch dir =>
    (dir ≠ .falling ∧ i.sample.rises.getLsbD ch.val = true) ∨ (dir ≠ .rising ∧ i.sample.falls.getLsbD ch.val = true)
  | .decode slot kind value mask errors =>
    ∃ r ∈ i.records, r.slot = slot ∧ r.kind = kind ∧ agree mask r.value value ∧ (errors = .none → r.errors = {})
      ∧ (errors = .some → r.errors ≠ {})
  | .counter k range =>
    (i.events.get k).seen = true
      ∧ ∀ lo hi, range = some (lo, hi) → lo ≤ (i.events.get k).latch ∧ (i.events.get k).latch ≤ hi
  | .flag flags all =>
    if all then ∀ n < 8, flags.getLsbD n = true → heard.getLsbD n = true
    else ∃ n < 8, flags.getLsbD n = true ∧ heard.getLsbD n = true

/-- A branch's predicate (R81), given the hold counts of its conditions. -/
def Branch.holdsAt (b : Branch) (i : SeqInputs) (heard : FlagSet) (h : BranchHolds) : Prop :=
  let a := b.condA.holdsAt i heard h.a
  let other := ∃ c, b.condB = some c ∧ c.holdsAt i heard h.b
  match b.combiner with
  | .a => a
  | .aAndB => a ∧ other
  | .aOrB => a ∨ other
  | .aAndNotB => a ∧ ¬other

/-- The hold count of a condition after a sample with a value (R79): a PATTERN that stands raises it to at most 65,536, one that
does not makes it 0; other conditions have none. -/
def Condition.heldFor (value : Levels) (hold after : Nat) : Condition → Prop
  | .pattern v mask _ => (agree mask value v → after = min 65536 (hold + 1)) ∧ (¬agree mask value v → after = 0)
  | _ => after = hold

/-- The hold counts of a branch after a sample (R79). -/
def Branch.heldFor (b : Branch) (value : Levels) (h after : BranchHolds) : Prop :=
  b.condA.heldFor value h.a after.a ∧ (∀ c, b.condB = some c → c.heldFor value h.b after.b)

/-! ## Posts that start -/

/-- What a SIGNAL post that starts now carries: nothing raised at this very instant (R164, R186). -/
def State.carried (s : State) : SignalPart :=
  match s.link.newRaise with
  | some r => if r.time = s.time.elapsed then r.before else s.link.pendingPart
  | none => s.link.pendingPart

/-- What stays pending when a SIGNAL post starts now: nothing but a raise of this very instant (R164, R186). -/
def State.leftBehind (s : State) : SignalPart :=
  match s.link.newRaise with
  | some r => if r.time = s.time.elapsed then r.raised else ⟨0, none⟩
  | none => ⟨0, none⟩

/-- Where a pending kind goes, once it has a destination (R177): `some none` is all stations. -/
def State.noticeGoesTo (s : State) : NoticeKind → Option (Option Station)
  | .present => some none
  | .loadTimeout => s.orders.notices.loadTimeout.map (fun d => some d.owner)
  | .fault | .triggered | .done | .decodeLoss | .stateOverrun | .epochSkipped | .activity =>
    s.orders.reportStation.map some

/-- A pending kind with a destination (R178). -/
def State.noticeWaits (s : State) (k : NoticeKind) : Prop :=
  s.orders.notices.holds k = true ∧ s.noticeGoesTo k ≠ none

/-- The Streamer has a ready post (R128, R129); readiness by age is the bit that BATCH_TIMEOUT sets (log 33). -/
def Streamer.postReady (st : Streamer) : Prop :=
  st.on = true ∧ st.queue ≠ [] ∧ (st.batch = true → st.threshold ≤ st.queue.length ∨ st.ageReached = true)

/-- The source holds a ready post (R158). -/
def State.holdsPost (s : State) : Source → Prop
  | .signal => s.carried.flags ≠ 0
  | .notice => ∃ k, s.noticeWaits k
  | .answer => s.orders.answers ≠ []
  | .columns => s.columns.outgoing ≠ []
  | .stream => s.streamer.postReady
  | .records => ∃ p, s.readout = .holding p

/-- The source's post may start (R157): it is ready, and was so when the line became idle or before this instant (log 12). -/
def State.mayOffer (s : State) (source : Source) : Prop := source ∈ s.link.offered ∧ s.holdsPost source

/-- The Link Controller may start a post now (R157, R158, R160, R161): the line is idle, a bit time begins, counted from the
instant the line became idle (log 12), and no retry wait stands. -/
def State.startAllowed (s : State) : Prop :=
  let bit := ([64, 32, 16, 8] : List Nat).getD s.link.rate.toNat 0
  s.resetHeld = false ∧ s.link.state = .running ∧ s.link.flight = none
    ∧ ∃ x, s.link.idleSince = some x ∧ (s.time.elapsed - x) % bit = 0
      ∧ (s.link.retryWait = true → 64 * bit ≤ s.time.elapsed - x)

/-- The Link Controller with a post in flight that starts now; the retry wait ends (R158, R160). -/
def State.linkStarted (s : State) (source : Source) (dest : Option Station) (payload : List Byte) : LinkController :=
  { s.link with
    flight := some ⟨source, framePost source.cls s.link.station dest payload, s.time.elapsed⟩
    retryWait := false
    idleSince := none }

/-- What a start of a source's post leaves (R158, R164, R178, R128, R129). -/
def State.started (s : State) : Source → State → Prop
  | .signal, t =>
    t = { s with
      link := { s.linkStarted .signal none (s.carried.flags :: beBytes 6 (s.carried.origin.getD 0)) with
        pendingPart := s.leftBehind, flightPart := s.carried, newRaise := none } }
  | .notice, t =>
    ∃ k dest, s.noticeWaits k ∧ (∀ k', s.noticeWaits k' → k.code ≤ k'.code) ∧ s.noticeGoesTo k = some dest
      ∧ t = { s with
        link := s.linkStarted .notice dest (fieldBytes (s.noticeFields k))
        orders := { s.orders with notices := { s.orders.notices with flying := some k, setAgain := false } } }
  | .answer, t =>
    ∃ a rest, s.orders.answers = a :: rest ∧ t = { s with link := s.linkStarted .answer (some a.dest) a.payload }
  | .columns, t =>
    ∃ p rest, s.columns.outgoing = p :: rest ∧ t = { s with link := s.linkStarted .columns (some p.dest) p.payload }
  | .stream, t =>
    let n := min (if s.streamer.batch then 8 else 1) s.streamer.queue.length
    t = { s with
      link := s.linkStarted .stream s.streamer.dest ((s.streamer.queue.take n).flatMap (fun q => fieldBytes q.fields))
      streamer := { s.streamer with inFlight := n } }
  | .records, t => ∃ p, s.readout = .holding p ∧ t = { s with link := s.linkStarted .records (some p.dest) p.payload }

/-! ## Posts that came back -/

/-- The notice set after a withdrawn or abandoned post came back (R132, R178). -/
def State.noticesBack (s : State) (f : Flight) : NoticeSet :=
  match f.source with
  | .notice => { s.orders.notices with flying := none, setAgain := false }
  | .stream =>
    s.orders.notices.withLoss
      (s.streamer.discardMarked = true ∧ s.streamer.queue.take s.streamer.inFlight ≠ [])
  | .signal | .answer | .columns | .records => s.orders.notices

/-- What a withdrawn or abandoned post leaves (R159, R164, R130, R132), but for the collision count, the retry wait, the link
state and the fault report: the source has its own again. -/
structure PostBack (s : State) (f : Flight) (t : State) : Prop where
  frame : t = { s with link := t.link, orders := t.orders, streamer := t.streamer }
  orders : t.orders = { s.orders with notices := t.orders.notices, fault := t.orders.fault }
  link : t.link = { s.link with
    flight := none, idleSince := none, state := t.link.state, collisions := t.link.collisions,
    retryWait := t.link.retryWait, pendingPart := t.link.pendingPart, flightPart := t.link.flightPart,
    newRaise := t.link.newRaise }
  signal : f.source = .signal →
    t.link.flightPart = ⟨0, none⟩
      ∧ t.link.pendingPart.flags = s.link.pendingPart.flags ||| s.link.flightPart.flags
      ∧ t.link.pendingPart.origin =
          (match s.link.pendingPart.origin, s.link.flightPart.origin with
            | some a, some b => some (min a b)
            | some a, none => some a
            | none, b => b)
      ∧ t.link.newRaise = s.link.newRaise.map (fun r => { r with before := r.before.rejoin s.link.flightPart })
  notSignal : f.source ≠ .signal →
    t.link.pendingPart = s.link.pendingPart ∧ t.link.flightPart = s.link.flightPart ∧ t.link.newRaise = s.link.newRaise
  stream : f.source = .stream → s.streamer.discardMarked = false → t.streamer = { s.streamer with inFlight := 0 }
  removed : f.source = .stream → s.streamer.discardMarked = true →
    t.streamer = { s.streamer with
        queue := s.streamer.queue.drop s.streamer.inFlight, losses := t.streamer.losses, inFlight := 0,
        discardMarked := false, ageReached := t.streamer.ageReached }
      ∧ lossesAfter s.streamer.losses (s.streamer.queue.take s.streamer.inFlight) t.streamer.losses
      ∧ (t.streamer.ageReached = true ↔ t.streamer.aged s.time.elapsed)
  notStream : f.source ≠ .stream → t.streamer = s.streamer

/-! ## Samples -/

/-- The levels at the instant of the present tick (R1, log 4): those that were read at it, or the levels as they stand while none
were; at the last tick always the latter, since no later stamp comes. -/
def State.tickLevels (s : State) : Levels :=
  match s.sampler.levelsRead with
  | some r => if r.tick = s.time.tick ∧ s.time.tick < 2 ^ 48 - 1 then r.levels else s.pfe.levels
  | none => s.pfe.levels

/-- What the sample read now holds (R1, R2, R7, R9). -/
structure State.SampleReads (s : State) : Prop where
  tick : s.readSample.tick = s.time.tick
  index : s.readSample.index = s.sampler.nextIndex
  value : s.readSample.value = s.tickLevels
  levels : ∀ ch : Channel, s.pfe.levels.getLsbD ch.val
    = (s.pfe.enabled.getLsbD ch.val
        && (decide (s.pfe.thresholds.get (groupOf ch) * 25 < s.pfe.inputs[ch.val]) != s.pfe.inverted.getLsbD ch.val))
  rises : ∀ ch : Channel, s.readSample.rises.getLsbD ch.val = true ↔
    ∃ prev, s.sampler.prevValue = some prev ∧ prev.getLsbD ch.val = false ∧ s.tickLevels.getLsbD ch.val = true
  falls : ∀ ch : Channel, s.readSample.falls.getLsbD ch.val = true ↔
    ∃ prev, s.sampler.prevValue = some prev ∧ prev.getLsbD ch.val = true ∧ s.tickLevels.getLsbD ch.val = false
  glitches : ∀ ch : Channel, s.readSample.mask.getLsbD ch.val = true ↔
    s.sampler.settings.mode = .timing ∧ 2 ≤ s.sampler.settings.divisor ∧ s.sampler.movedTwice.getLsbD ch.val = true
      ∧ ∃ prev, s.sampler.prevValue = some prev ∧ prev.getLsbD ch.val = s.tickLevels.getLsbD ch.val

/-- The sequencer's evaluation of the sample read now, on what the decoders complete, what the counters hand it and the flags
placed at it (R71, R80, R83, R90). -/
def State.evaluated (s : State) : Sequencer × Option Taken :=
  s.seq.evaluate
    ⟨s.readSample, s.decoders.completed s.readSample, (s.counters.handleSample s.readSample).events,
      s.store.placement.foldl (fun f e => f ||| e.flags) 0⟩

/-- The cause by which the sample read now is the trigger sample, if it is: in ARMED alone, the TRIGGER action of a taken branch
before a pending force (R45, R46). -/
def State.sampleCause (s : State) : Option Cause :=
  if s.capture.state ≠ .armed then none
  else
    match s.evaluated.2.filter (fun b => b.branch.trigger), s.capture.forcePending with
    | some b, _ => some (.stage b.fromStage b.branchId)
    | none, forced => if forced then some .forced else none

/-- The run that the sample read now closes, and the run open after it (R15, R16). -/
def State.sampleRun (s : State) : Option Run × Run := s.sampler.formRun s.readSample s.sampleCause.isSome

/-- The records of steps 1 to 4 of R21: the closed run, the STATE_OVERRUN marker, the SIGNAL_IN markers, the DECODE copies. -/
def State.writesBeforeTrigger (s : State) (afterMiss : Bool) : List Record :=
  s.sampleRun.1.toList.map .run
    ++ (if afterMiss = true ∧ 0 < s.sampler.missed then [.stateOverrun s.time.tick s.sampler.missed] else [])
    ++ s.store.placement.map (fun e => .signalIn s.time.tick e.receipt e.sender e.flags e.origin)
    ++ ((s.decoders.completed s.readSample).filter (fun r => (s.decoders.slots.get r.slot).storeCopies)).map
        (fun r => .decode r s.time.tick)

/-- Capture Control after the sample read now, but for a capture end at it (R45, R47). -/
def State.sampleCapture (s : State) : CaptureControl :=
  if s.sampleCause.isSome then
    { s.capture with state := .triggered, armTimer := none, forcePending := false, countdown := s.capture.postDepth }
  else if s.capture.state = .triggered then { s.capture with countdown := s.capture.countdown - 1 }
  else s.capture

/-- The sample read now completes the post depth (R47). -/
def State.sampleEnds (s : State) : Bool := decide (s.sampleCapture.state = .triggered ∧ s.sampleCapture.countdown = 0)

/-- Every record that the sample read now brings, in the order of R21, and after the last sample of a capture the run that the
end closes (R17). -/
def State.sampleWrites (s : State) (afterMiss : Bool) : List Record :=
  s.writesBeforeTrigger afterMiss
    ++ s.sampleCause.toList.map (.trigger s.time.tick)
    ++ (match s.evaluated.2 with
        | none => []
        | some b =>
          if b.branch.marker then [.stage s.time.tick b.fromStage b.branch.nextStage b.branchId] else [])
    ++ (if s.sampleEnds then [.run s.sampleRun.2] else [])

/-- The store `st'` is `st` with records written behind its newest; a full store gave up as many of its oldest (R20, R23, R25). -/
def Store.wrote (st st' : Store) (written : List Record) : Prop :=
  st'.nextSeq = st.nextSeq + written.length
    ∧ st'.records =
        (st.records ++ written).drop (st.records.length + written.length - max 65536 st.records.length)

/-- The store can place no record: it is full, and the retained pre-trigger records are at most min(F, n0) (R25). -/
def Store.refuses (st : Store) : Prop :=
  65536 ≤ st.records.length
    ∧ ∃ p, st.trigger = some p ∧ p.sequence - (st.nextSeq - st.records.length) ≤ min st.floor p.n0

/-- The return state is IDLE or DONE in STANDBY, and none outside it (R52, R53). -/
def CaptureControl.standbyConsistent (c : CaptureControl) : Prop :=
  if c.state = .standby then c.returnState = some .idle ∨ c.returnState = some .done else c.returnState = none

/-- The bounds that the manual gives the node's lists and counts (R14, R20, R22, R29, R123, R166, R172), the activity set inside
the enabled channels (R4), no trigger position in ARMED (R24), and the return state (R53). -/
def State.bounded (s : State) : Prop :=
  s.time.tick ≤ 2 ^ 48 - 1
    ∧ s.store.records.length ≤ 65536 ∧ s.store.records.length ≤ s.store.nextSeq
    ∧ s.store.floor ≤ 65535 ∧ (s.capture.state = .armed → s.store.trigger = none)
    ∧ s.store.placement.length ≤ 8
    ∧ s.sampler.missed ≤ 65535
    ∧ s.streamer.queue.length ≤ 64
    ∧ s.orders.answers.length ≤ 4
    ∧ s.pfe.activity &&& ~~~s.pfe.enabled = 0
    ∧ s.capture.standbyConsistent

/-- What one sample of a running capture, taken in `s`, leaves in `t`, whatever brought it. `afterMiss` tells that an edge was
missed before the taken edge of the sample (R14).
The run former, the decoders, the counters and the sequencer handle it (R7, R15, R71, R83, R101); its records are written in the
order of R21 until one is refused (R26); the trigger sample enters TRIGGERED (R24, R45); a taken branch raises and restarts
(R74, R91, R163); the capture goes on, or ends with DEPTH or STORE_LIMIT (R17, R26, R47, R50). -/
structure SampleHandled (s : State) (afterMiss : Bool) (t : State) : Prop where
  index : t.sampler.nextIndex = s.sampler.nextIndex + 1
  sample : s.SampleReads
  value : t.sampler.prevValue = some s.tickLevels
  read : t.sampler.levelsRead = some ⟨s.time.tick, s.tickLevels⟩
  counted : t.sampler.movedOnce = 0 ∧ t.sampler.movedTwice = 0
  tick : t.sampler.lastSampleTick = some s.time.tick
  openRun : t.sampler.openRun = if t.capture.state = .done then none else some s.sampleRun.2
  seq : t.seq = s.evaluated.1
  decoderBank : s.decoders.HandlesWell s.readSample
  decoders : t.decoders =
    if t.capture.state = .done then (s.decoders.handleSample s.readSample).stop else s.decoders.handleSample s.readSample
  counters : t.counters =
    let handled := (s.counters.handleSample s.readSample).clearEvents
    let acted := match s.evaluated.2 with | none => handled | some b => handled.restart b.branch.restarts s.time.tick
    if t.capture.state = .done then acted.stop else acted
  counterBank : s.counters.HandlesWell s.readSample
  restarts : ∀ (b : CounterBank) (set : BitVec 4), b.RestartsWell set s.time.tick
  stops : ∀ b : CounterBank, CountersStopped b b.stop
  streamer : t.streamer = (Streamer.receiveAll (fun i => (s.decoders.slots.get i).stream) s.time.elapsed
    (s.decoders.completed s.readSample) s.streamer).1
  met : Streamer.meetsAll (fun i => (s.decoders.slots.get i).stream) s.time.elapsed (s.decoders.completed s.readSample)
    s.streamer (Streamer.receiveAll (fun i => (s.decoders.slots.get i).stream) s.time.elapsed
      (s.decoders.completed s.readSample) s.streamer)
  stored : s.bounded → ∃ written, written <+: s.sampleWrites afterMiss ∧ s.store.wrote t.store written
    ∧ (written = s.sampleWrites afterMiss →
        t.capture = if s.sampleEnds then s.sampleCapture.finish .depth else s.sampleCapture)
    ∧ (written ≠ s.sampleWrites afterMiss → t.store.refuses ∧ t.capture = s.sampleCapture.finish .storeLimit)
    ∧ t.sampler.missed =
        if afterMiss = true ∧ s.sampleRun.1.toList.length < written.length then 0 else s.sampler.missed
  trigger : s.bounded → ∀ c, s.sampleCause = some c →
    let sequence := s.store.nextSeq + (s.writesBeforeTrigger afterMiss).length
    t.store.trigger
        = some ⟨sequence, min 65536 (s.store.records.length + (s.writesBeforeTrigger afterMiss).length)⟩
      ∧ t.orders.notices.triggered = some ⟨s.time.tick, sequence, c⟩
  noTrigger : s.sampleCause = none →
    t.store.trigger = s.store.trigger ∧ t.orders.notices.triggered = s.orders.notices.triggered
  state : t.capture.state = s.sampleCapture.state ∨ t.capture.state = .done
  quiet : s.bounded → s.store.records.length + (s.sampleWrites afterMiss).length ≤ 65536 →
    t.readout = s.readout ∧ t.columns = s.columns
  placement : t.store.placement = []
  floor : t.store.floor = s.store.floor
  settings : t.sampler.settings = s.sampler.settings
  record : t.sampler.record = s.sampler.record
  time : t.time = s.time
  pfe : t.pfe = s.pfe
  link : t.link = { s.link with pendingPart := t.link.pendingPart, newRaise := t.link.newRaise }
  raised : t.link.pendingPart =
    match s.evaluated.2 with
    | none => s.link.pendingPart
    | some b =>
      if b.branch.raises = 0 then s.link.pendingPart
      else ⟨s.link.pendingPart.flags ||| b.branch.raises,
        if s.link.pendingPart.flags = 0 then some s.time.tick else s.link.pendingPart.origin⟩
  notCarriedYet : t.link.carriedPart s.time.elapsed = s.link.carriedPart s.time.elapsed
  orders : t.orders = { s.orders with notices := t.orders.notices }
  done : t.orders.notices.done =
    if t.capture.state = .done then some t.capture.reason else s.orders.notices.done
  decodeLoss : t.orders.notices.decodeLoss = (s.orders.notices.decodeLoss
    || (Streamer.receiveAll (fun i => (s.decoders.slots.get i).stream) s.time.elapsed
      (s.decoders.completed s.readSample) s.streamer).2)
  resetHeld : t.resetHeld = s.resetHeld
  freeDraws : t.freeDraws = s.freeDraws
  pending : t.pending = s.pending

/-! ## The capture end -/

/-- What an entry to DONE leaves (R17, R26, R50): the closing run takes its place, or makes the reason STORE_LIMIT when it finds
none; whatever samples is stopped, and nothing else changes. -/
structure CaptureEnded (s : State) (why : Reason) (t : State) : Prop where
  frame : t = { s with
    sampler := t.sampler, store := t.store, readout := t.readout, capture := t.capture, counters := t.counters,
    decoders := t.decoders, columns := t.columns, orders := t.orders }
  capture : t.capture = { s.capture with
    state := .done, reason := t.capture.reason, armTimer := none, forcePending := false }
  noRun : s.sampler.openRun = none →
    t.capture.reason = why ∧ t.store = { s.store with placement := [] } ∧ t.readout = s.readout ∧ t.columns = s.columns
  refused : ∀ r, s.sampler.openRun = some r → s.place (.run r) = none →
    t.capture.reason = .storeLimit ∧ t.store = { s.store with placement := [] } ∧ t.readout = s.readout
      ∧ t.columns = s.columns
  placed : ∀ r u, s.sampler.openRun = some r → s.place (.run r) = some u →
    t.capture.reason = why ∧ t.store = { u.store with placement := [] } ∧ t.readout = u.readout ∧ t.columns = u.columns
  sampler : t.sampler = { s.sampler with openRun := none, hold := none, delayLine := [], clockEdges := [] }
  decoders : ∀ d, t.decoders.slots.get d = { s.decoders.slots.get d with phase := .stopped, pendingRun := none }
  copySet : t.decoders.copySet = s.decoders.copySet
  counters : CountersStopped s.counters t.counters
  orders : t.orders = { s.orders with notices := s.orders.notices.setDone t.capture.reason }

/-! ## Invariants -/

/-- The outgoing list fits the phase of the current reduction, with at most three posts (R136, R147). -/
def ColumnEngine.listFits (e : ColumnEngine) : Prop :=
  match e.current with
  | none => e.outgoing.length ≤ 3 ∧ ∀ p ∈ e.outgoing, p.ofCurrent = false
  | some r =>
    match r.phase with
    | .starting => e.outgoing.length ≤ 3 ∧ ∀ p ∈ e.outgoing, p.ofCurrent = false
    | .passing => ∃ p, e.outgoing = [p] ∧ p.ofCurrent = true ∧ p.last = none
    | .closing =>
      (∃ p, e.outgoing = [p] ∧ p.ofCurrent = true ∧ p.last.isSome = true)
        ∨ ∃ p q, e.outgoing = [p, q] ∧ p.ofCurrent = true ∧ q.ofCurrent = true ∧ p.last = none ∧ q.last.isSome = true
    | .waiting _ => e.outgoing = []

/-- A step keeps a property of states. -/
def keptByEveryStep (inv : State → Prop) : Prop :=
  ∀ s t, inv s → step s = .next t → inv t

end Sys2Proof.Machine
end

