-- ==== Sys2Proof/Certificates/Slice0/Obligations.lean ====
section
/-! DEFINITION. The statements for the provers, listed in OBLIGATIONS.json. -/

open Sys2Proof Sys2Proof.Machine

/-! ## The queue and time -/

/-- The command at the front of the queue runs, on the queue's rest. -/
def Obligations.StepRunsTheFrontCommand : Prop :=
  ∀ (c : Instr) (rest : List Instr) (s : State),
    s.pending = c :: rest → step s = exec c { s with pending := rest }

/-- On an empty queue a step takes the event that is due, and with none due lets one tick pass. The model's choice (logs 1 and
10). The tick counter stops at 2^48-1 and stands still in a held reset (log 24). -/
def Obligations.EmptyQueueTakesADueEventOrATick : Prop :=
  (∀ (c : Instr) (s : State), s.pending = [] → s.dueEvent = some c → step s = exec c s)
    ∧ ∀ s : State, s.pending = [] → s.dueEvent = none →
      ∃ t, step s = .next t
        ∧ t = { s with time := t.time, sampler := t.sampler, counters := t.counters, link := t.link }
        ∧ t.time.elapsed = s.time.elapsed + 1
        ∧ t.time.tick =
            (if s.resetHeld then s.time.tick else if s.time.tick < 2 ^ 48 - 1 then s.time.tick + 1 else s.time.tick)
        ∧ (s.sampler.hold = none → t.sampler = s.sampler)
        ∧ ((∀ k, (s.counters.k.get k).gateDue = false) → t.counters = s.counters)
        ∧ t.link = { s.link with offered := t.link.offered }
        ∧ (s.link.idleSince = none ∨ s.resetHeld = true → t.link = s.link)
        ∧ (s.link.idleSince ≠ none → s.resetHeld = false → ∀ source, source ∈ t.link.offered ↔ t.holdsPost source)

/-- The values that the manual gives for reset, block by block. -/
def Obligations.ResetLeavesTheManualsValues : Prop :=
  let s := State.reset
  s.time.tick = 0
    ∧ s.pfe.enabled = 0xFFFF ∧ s.pfe.inverted = 0 ∧ s.pfe.thresholds = ⟨66, 66, 66, 66⟩ ∧ s.pfe.activity = 0
    ∧ s.pfe.wakeSet = []
    ∧ s.sampler.settings = ⟨.timing, 1, 15, .rising, none, true, .edge, 0, 1⟩ ∧ s.sampler.record = ⟨.timing, 1⟩
    ∧ s.sampler.openRun = none ∧ s.sampler.missed = 0 ∧ s.sampler.hold = none ∧ s.sampler.delayLine = []
    ∧ s.store.records = [] ∧ s.store.nextSeq = 0 ∧ s.store.floor = 32768 ∧ s.store.trigger = none
    ∧ s.store.placement = [] ∧ s.store.lastRef = none ∧ s.readout = .free
    ∧ s.capture = ⟨.idle, .none, 65536, 0, 0, none, false, none, false⟩
    ∧ (∀ k, (s.counters.k.get k).settings = ⟨.off, .sample, 0, .rising, 0, .rising, 65536, false, .expiry⟩
        ∧ (s.counters.k.get k).value = 0 ∧ (s.counters.k.get k).latch = 0 ∧ (s.counters.k.get k).expired = false
        ∧ (s.counters.k.get k).overflow = false ∧ (s.counters.k.get k).latchMark = false
        ∧ (s.counters.k.get k).gateOpen = false)
    ∧ s.counters.cascade01 = false ∧ s.counters.cascade23 = false
    ∧ s.seq.program = [⟨⟨.always, none, .a, false, 1, 0, true, 0, 0, false⟩, none⟩] ∧ s.seq.isDefault = true
    ∧ s.seq.stage = 0 ∧ s.seq.primaryCount = 0 ∧ s.seq.alternateCount = 0 ∧ s.seq.primaryPrev = none
    ∧ s.seq.alternatePrev = none ∧ s.seq.heard = 0 ∧ s.seq.load = none
    ∧ (∀ d, s.decoders.slots.get d = ⟨.off, false, false, .stopped, false, none⟩) ∧ s.decoders.copySet = 0
    ∧ s.streamer.on = false ∧ s.streamer.dest = none ∧ s.streamer.batch = false ∧ s.streamer.threshold = 8
    ∧ s.streamer.timeout = 10 ∧ s.streamer.queue = [] ∧ s.streamer.losses = ⟨0, 0, 0, 0⟩
    ∧ s.columns = ⟨none, 0, []⟩
    ∧ s.link.state = .joining ∧ s.link.collisions = 0 ∧ s.link.retryWait = false ∧ s.link.flight = none
    ∧ s.link.pendingPart = ⟨0, none⟩ ∧ s.link.flightPart = ⟨0, none⟩
    ∧ s.orders.answers = [] ∧ (∀ k, s.orders.notices.holds k = (k == .present)) ∧ s.orders.reportStation = none
    ∧ s.orders.fault = none ∧ s.orders.loadTimer = none

/-- Every command completes with a next state, and none touches the queue. The model's reading, not a rule of the manual: no event
stops the node (log 30), and a command whose event is not due changes nothing (log 2). -/
def Obligations.EveryCommandCompletesAndLeavesTheQueue : Prop :=
  ∀ (i : Instr) (s : State), ∃ t, exec i s = .next t ∧ t.pending = s.pending

/-- With the reset pin held low the node drives nothing, takes no post and samples nothing (its idle timers: log 24); in JOINING
it receives no post (log 25). -/
def Obligations.UnheardCommandsChangeNothing : Prop :=
  (∀ (i : Instr) (s : State), s.resetHeld = true → s.link.flight = none → actsInReset i = false → exec i s = .next s)
    ∧ ∀ (i : Instr) (s : State), s.link.state = .joining → isPost i = true → exec i s = .next s

/-! ## Taking an order -/

/-- An order received in STANDBY is handled in the return state, whatever becomes of it. -/
def Obligations.OrderEndsStandby : Prop :=
  ∀ (i : Instr) (s : State), isOrder i = true → s.receives = true → s.capture.state = .standby →
    s.capture.standbyConsistent →
    exec i s =
      exec i { s with capture := { s.capture with state := s.capture.returnState.getD .idle, returnState := none } }

/-- An order for the node alone that finds four answers waiting is not taken, unless it is a RESET. -/
def Obligations.FullAnswerListTurnsOrdersAway : Prop :=
  ∀ (i : Instr) (s : State), turnedAway i = some false → s.receives = true → s.capture.state ≠ .standby →
    4 ≤ s.orders.answers.length → exec i s = .next { s with link := s.heardLink }

/-- An order of the wrong length is answered LENGTH and changes nothing else. -/
def Obligations.WrongLengthIsAnsweredLength : Prop :=
  ∀ (i : Instr) (code : Byte) (n : Nat) (o : OrderPost) (s : State), fixedLength i = some (code, n, o) →
    s.orderReady o → o.params.length ≠ n → exec i s = .next (s.onlyAnswered o code .length 0)

/-- An order whose code names no order is answered UNKNOWN; one without a tag is not taken and not answered. -/
def Obligations.UnknownOrderIsAnsweredUnknown : Prop :=
  (∀ (o : OrderPost) (code : Byte) (s : State), s.orderReady o → namesOrder code = false →
      exec (.unknownOrder o.sender o.toAll (code :: o.tag :: o.params)) s = .next (s.onlyAnswered o code .unknown 0))
    ∧ ∀ (sender : Station) (toAll : Bool) (payload : List Byte) (s : State), payload.length < 2 → s.receives = true →
      s.capture.state ≠ .standby → exec (.unknownOrder sender toAll payload) s = .next { s with link := s.heardLink }

/-- In ARMED and TRIGGERED the orders that set the node up, ARM, RELEASE, STANDBY and SEARCH are refused with STATE. -/
def Obligations.SettingOrdersAreRefusedInCapture : Prop :=
  ∀ (o : OrderPost) (s : State), s.orderReady o → s.capturing = true →
    (o.params.length = 13 → exec (.configureChannels o) s = .next (s.onlyAnswered o 0x01 .state 0))
      ∧ (o.params.length = 9 → exec (.setSampling o) s = .next (s.onlyAnswered o 0x02 .state 0))
      ∧ (o.params.length = 10 → exec (.setCapture o) s = .next (s.onlyAnswered o 0x03 .state 0))
      ∧ (o.params.length = 10 → exec (.setCounter o) s = .next (s.onlyAnswered o 0x04 .state 0))
      ∧ (decoderLength (paramNat o 3) = some o.params.length →
          exec (.setDecoder o) s = .next (s.onlyAnswered o 0x05 .state 0))
      ∧ (o.params.length = 2 → exec (.loadBegin o) s = .next (s.onlyAnswered o 0x06 .state 0))
      ∧ (o.params.length = 0 → exec (.arm o) s = .next (s.onlyAnswered o 0x08 .state 0))
      ∧ (o.params.length = 0 → exec (.release o) s = .next (s.onlyAnswered o 0x0B .state 0))
      ∧ (paramNat o 3 ≤ 16 → o.params.length = 2 + paramNat o 3 →
          exec (.standby o) s = .next (s.onlyAnswered o 0x0C .state 0))
      ∧ (o.params.length = 8 → exec (.search o) s = .next (s.onlyAnswered o 0x11 .state 0))

/-! ## The orders that set the node up -/

/-- A taken CONFIGURE_CHANNELS applies enables, inverts and clamped thresholds, prunes the activity set, and changes nothing
else; a group set with a bit above 3 is refused with RANGE. -/
def Obligations.ConfigureChannelsTaken : Prop :=
  ∀ (o : OrderPost) (s : State), s.orderReady o → o.params.length = 13 → s.capturing = false →
    (16 ≤ paramNat o 6 → exec (.configureChannels o) s = .next (s.onlyAnswered o 0x01 .range 0))
      ∧ (paramNat o 6 < 16 →
          ∃ t, exec (.configureChannels o) s = .next t
            ∧ t = { s with
                pfe := t.pfe
                link := s.heardLink
                orders := s.ordersWith o 0x01 (if thresholdsClamped o then .clamped else .ok) 0 }
            ∧ t.pfe.enabled = paramWord o 2 ∧ t.pfe.inverted = paramWord o 4
            ∧ (∀ g : Fin 4, t.pfe.thresholds.get g =
                if (paramByte o 6).getLsbD g.val then max (-240) (min 240 (orderThreshold o g))
                else s.pfe.thresholds.get g)
            ∧ t.pfe.activity = (s.pfe.activity ||| (s.pfe.rawLevels ^^^ t.pfe.rawLevels)) &&& paramWord o 2
            ∧ t.pfe.inputs = s.pfe.inputs ∧ t.pfe.wakeSet = s.pfe.wakeSet)

/-- SET_SAMPLING outside a capture: RANGE when a field is not one of those listed (log 18 for the channel of an absent
qualifier); otherwise every sampler setting is written, a HOLD factor of 0 or 1 as 2, and nothing else changes. -/
def Obligations.SetSamplingTaken : Prop :=
  ∀ (o : OrderPost) (s : State), s.orderReady o → o.params.length = 9 → s.capturing = false →
    (¬samplingFits o → exec (.setSampling o) s = .next (s.onlyAnswered o 0x02 .range 0))
      ∧ (samplingFits o →
          ∃ t, exec (.setSampling o) s = .next t
            ∧ t = { s with
                sampler := { s.sampler with settings := t.sampler.settings }
                link := s.heardLink
                orders := s.ordersWith o 0x02 (if paramNat o 8 = 1 ∧ paramNat o 9 < 2 then .clamped else .ok) 0 }
            ∧ t.sampler.settings.mode = (if paramNat o 2 = 0 then .timing else .state)
            ∧ t.sampler.settings.divisor = (if paramField o 3 2 = 0 then 65536 else paramField o 3 2)
            ∧ t.sampler.settings.clockChannel.val = paramNat o 5
            ∧ edgeOfCode (paramNat o 6) = some t.sampler.settings.clockEdge
            ∧ t.sampler.settings.qualifier.map Fin.val
                = (if 128 ≤ paramNat o 7 then some (paramNat o 7 % 64) else none)
            ∧ t.sampler.settings.qualifyingLevel = decide (paramNat o 7 / 64 % 2 = 1)
            ∧ clockTypeOf (paramNat o 8) = some t.sampler.settings.clockType
            ∧ t.sampler.settings.tdFactor = (if paramNat o 8 = 1 then max 2 (paramNat o 9) else paramNat o 9)
            ∧ t.sampler.settings.tdMultiplier = 10 ^ paramNat o 10)

/-- SET_CAPTURE outside a capture writes floor, post depth and arm limit, a floor above 65,535 as 65,535 with the answer CLAMPED,
and changes nothing else, so neither the capture held nor its completion reason; in ARMED or TRIGGERED it is refused with STATE and
changes nothing else, so the settings of an ARM are those of its whole capture; in STANDBY it is judged after the return. The reset
pin and the RESET order set the three settings to 32,768, 65,536 and 0, and ARM, ABORT, RELEASE and STANDBY leave them. -/
def Obligations.SetCaptureTaken : Prop :=
  let settings (u : State) : Nat × Nat × Nat := (u.store.floor, u.capture.postDepth, u.capture.armLimit)
  (∀ (o : OrderPost) (s : State), s.orderReady o → o.params.length = 10 → s.capturing = false →
      exec (.setCapture o) s =
        .next { s with
          store := { s.store with floor := min 65535 (paramField o 2 4) }
          capture := { s.capture with postDepth := paramField o 6 4, armLimit := paramField o 10 2 }
          link := s.heardLink
          orders := s.ordersWith o 0x03 (if 65535 < paramField o 2 4 then .clamped else .ok) 0 })
    ∧ (∀ (o : OrderPost) (s : State), s.orderReady o → o.params.length = 10 → s.capturing = true →
        exec (.setCapture o) s = .next (s.onlyAnswered o 0x03 .state 0))
    ∧ (∀ (o : OrderPost) (s : State), s.receives = true → s.capture.state = .standby → s.capture.standbyConsistent →
        exec (.setCapture o) s =
          exec (.setCapture o)
            { s with capture := { s.capture with state := s.capture.returnState.getD .idle, returnState := none } })
    ∧ (∀ s : State, ∃ t, exec .resetPin s = .next t ∧ settings t = (32768, 65536, 0))
    ∧ (∀ (o : OrderPost) (s : State), s.receives = true → o.params.length = 0 →
        ∃ t, exec (.reset o) s = .next t ∧ settings t = (32768, 65536, 0))
    ∧ ∀ (o : OrderPost) (s t : State) (i : Instr), (i = .arm o ∨ i = .abort o ∨ i = .release o ∨ i = .standby o) →
      exec i s = .next t → settings t = settings s

/-- SET_COUNTER outside a capture: RANGE when a field is not one of those listed; otherwise it writes the named counter's
settings, clears its values, writes the pair's cascade setting when it names the low counter, and changes nothing else. -/
def Obligations.SetCounterTaken : Prop :=
  ∀ (o : OrderPost) (s : State), s.orderReady o → o.params.length = 10 → s.capturing = false →
    (¬counterFits o → exec (.setCounter o) s = .next (s.onlyAnswered o 0x04 .range 0))
      ∧ (counterFits o →
          ∃ t, exec (.setCounter o) s = .next t
            ∧ t = { s with counters := t.counters, link := s.heardLink, orders := s.ordersWith o 0x04 .ok 0 }
            ∧ (∀ k : Fin 4, k.val ≠ paramNat o 2 → t.counters.k.get k = s.counters.k.get k)
            ∧ (∀ k : Fin 4, k.val = paramNat o 2 →
                let c := t.counters.k.get k
                c.value = 0 ∧ c.latch = 0 ∧ c.expired = false ∧ c.overflow = false ∧ c.latchMark = false
                  ∧ c.gateOpen = false ∧ counterModeOf (paramNat o 3) = some c.settings.mode
                  ∧ counterSourceOf (paramNat o 4) = some c.settings.source
                  ∧ c.settings.sourceChannel.val = paramNat o 5
                  ∧ edgeOfCode (paramNat o 6) = some c.settings.sourceEdge
                  ∧ c.settings.periodChannel.val = paramNat o 7
                  ∧ edgeOfCode (paramNat o 8) = some c.settings.periodEdge
                  ∧ c.settings.reload = (if paramField o 9 2 = 0 then 65536 else paramField o 9 2)
                  ∧ c.settings.oneshot = decide (paramNat o 11 / 16 % 4 = 1)
                  ∧ eventKindOf (paramNat o 11 % 4) = some c.settings.select)
            ∧ t.counters.cascade01 = (if paramNat o 2 = 0 then decide (128 ≤ paramNat o 11) else s.counters.cascade01)
            ∧ t.counters.cascade23 = (if paramNat o 2 = 2 then decide (128 ≤ paramNat o 11) else s.counters.cascade23))

/-- SET_DECODER: an unknown kind is RANGE, a wrong length LENGTH, a field that R103 refuses RANGE (log 18 for the channel
of an absent line, and for a run prefixing byte above 1); a taken order replaces the slot as a whole by what its bytes hold and
changes nothing else. -/
def Obligations.SetDecoderJudged : Prop :=
  ∀ (o : OrderPost) (s : State), s.orderReady o →
    (o.params.length < 2 → exec (.setDecoder o) s = .next (s.onlyAnswered o 0x05 .length 0))
      ∧ (2 ≤ o.params.length → 3 < paramNat o 3 → exec (.setDecoder o) s = .next (s.onlyAnswered o 0x05 .range 0))
      ∧ (∀ n, 2 ≤ o.params.length → decoderLength (paramNat o 3) = some n → o.params.length ≠ n →
          exec (.setDecoder o) s = .next (s.onlyAnswered o 0x05 .length 0))
      ∧ (decoderLength (paramNat o 3) = some o.params.length → s.capturing = false → decoderOf o = none →
          exec (.setDecoder o) s = .next (s.onlyAnswered o 0x05 .range 0))
      ∧ (∀ x, decoderLength (paramNat o 3) = some o.params.length → s.capturing = false → decoderOf o = some x →
          exec (.setDecoder o) s =
            .next { s with
              decoders := { s.decoders with
                slots := s.decoders.slots.set x.slot
                  ⟨x.kind, x.storeCopies, x.stream, .stopped, false, none⟩ }
              link := s.heardLink
              orders := s.ordersWith o 0x05 .ok 0 })
      ∧ (¬decoderFits o → decoderOf o = none)
      ∧ (decoderFits o → ∃ x, decoderOf o = some x ∧ decoderReads o x)

/-! ## The program load -/

/-- LOAD_BEGIN outside a capture: RANGE for a total outside 4 to 200 or a stage count outside 1 to 8, BUSY while another station
owns a load, and otherwise it starts or restarts a load and its timer. A LOAD_PART at the expected offset appends its bytes. -/
def Obligations.LoadBeginAndPartTaken : Prop :=
  ∀ (o : OrderPost) (s : State), s.orderReady o →
    (o.params.length = 2 → s.capturing = false →
        (paramNat o 2 < 4 ∨ 200 < paramNat o 2 ∨ paramNat o 3 < 1 ∨ 8 < paramNat o 3) →
        exec (.loadBegin o) s = .next (s.onlyAnswered o 0x06 .range 0))
      ∧ (∀ l, o.params.length = 2 → s.capturing = false → 4 ≤ paramNat o 2 → paramNat o 2 ≤ 200 → 1 ≤ paramNat o 3 →
          paramNat o 3 ≤ 8 → s.seq.load = some l → l.owner ≠ o.sender →
          exec (.loadBegin o) s = .next (s.onlyAnswered o 0x06 .busy 0))
      ∧ (o.params.length = 2 → s.capturing = false → 4 ≤ paramNat o 2 → paramNat o 2 ≤ 200 → 1 ≤ paramNat o 3 →
          paramNat o 3 ≤ 8 → (∀ l, s.seq.load = some l → l.owner = o.sender) →
          exec (.loadBegin o) s =
            .next { s with
              seq := { s.seq with load := some ⟨o.sender, paramNat o 2, paramNat o 3, []⟩ }
              link := s.heardLink
              orders := { s.ordersWith o 0x06 .ok 0 with loadTimer := some (s.time.elapsed + 8000000) } })
      ∧ ∀ l, s.seq.load = some l → l.owner = o.sender → o.params.length = 2 + paramNat o 3 → 1 ≤ paramNat o 3 →
        paramNat o 3 ≤ 120 → paramNat o 2 = l.staged.length → l.staged.length + paramNat o 3 < l.total →
        exec (.loadPart o) s =
          .next { s with
            seq := { s.seq with load := some { l with staged := l.staged ++ o.params.drop 2 } }
            link := s.heardLink
            orders := { s.ordersWith o 0x07 .ok 0 with loadTimer := some (s.time.elapsed + 8000000) } }

/-- The LOAD_PART with the last byte ends the load: CHECK when the sum of the staged bytes is not 0. Otherwise the image holds a
program, which becomes active, or has a first stage that fails, which CONFLICT names; one of the two is the case. That unnamed bits
of an image are not looked at is log 17's, and that an activated program is not the default, whatever its bytes, is the model's
choice (log 23). -/
def Obligations.LoadEndsWithItsLastByte : Prop :=
  ∀ (o : OrderPost) (s : State) (l : Load), s.orderReady o → s.seq.load = some l → l.owner = o.sender →
    o.params.length = 2 + paramNat o 3 → 1 ≤ paramNat o 3 → paramNat o 3 ≤ 120 → paramNat o 2 = l.staged.length →
    l.staged.length + paramNat o 3 = l.total →
    let image := l.staged ++ o.params.drop 2
    let sum := (image.map BitVec.toNat).sum % 256
    (sum ≠ 0 →
        exec (.loadPart o) s =
          .next { s with
            seq := { s.seq with load := none }
            link := s.heardLink
            orders := { s.ordersWith o 0x07 .check 0 with loadTimer := none } })
      ∧ ((∃ program, imageHolds l.stages image program) ∨ ∃ stage, imageFailsAt l.stages image stage)
      ∧ (∀ stage, sum = 0 → imageFailsAt l.stages image stage →
          exec (.loadPart o) s =
            .next { s with
              seq := { s.seq with load := none }
              link := s.heardLink
              orders := { s.ordersWith o 0x07 .conflict stage with loadTimer := none } })
      ∧ (∀ program, sum = 0 → imageHolds l.stages image program →
          exec (.loadPart o) s =
            .next { s with
              seq :=
                { program := program, isDefault := false, stage := 0, primaryCount := 0, alternateCount := 0,
                  primaryPrev := none, alternatePrev := none, holds := program.map (fun _ => ⟨⟨0, 0⟩, ⟨0, 0⟩⟩),
                  heard := 0, load := none }
              link := s.heardLink
              orders := { s.ordersWith o 0x07 .ok 0 with loadTimer := none } })

/-- A LOAD_PART of fewer than 4 payload bytes is answered LENGTH, and a load goes on. Another is refused with SEQUENCE without a
load and with BUSY from another station; from the owner, one of the wrong length, range or offset abandons the load. -/
def Obligations.LoadPartRefusals : Prop :=
  (∀ (o : OrderPost) (s : State), s.orderReady o → o.params.length < 2 →
    exec (.loadPart o) s = .next (s.onlyAnswered o 0x07 .length 0)) ∧
  ∀ (o : OrderPost) (s : State), s.orderReady o → 2 ≤ o.params.length →
    (s.seq.load = none → exec (.loadPart o) s = .next (s.onlyAnswered o 0x07 .sequence 0))
      ∧ ∀ l, s.seq.load = some l →
        (l.owner ≠ o.sender → exec (.loadPart o) s = .next (s.onlyAnswered o 0x07 .busy 0))
          ∧ (∀ why, l.owner = o.sender →
              (o.params.length ≠ 2 + paramNat o 3 ∧ why = .length)
                ∨ (o.params.length = 2 + paramNat o 3
                    ∧ (paramNat o 3 < 1 ∨ 120 < paramNat o 3 ∨ l.total < l.staged.length + paramNat o 3) ∧ why = .range)
                ∨ (o.params.length = 2 + paramNat o 3 ∧ 1 ≤ paramNat o 3 ∧ paramNat o 3 ≤ 120
                    ∧ l.staged.length + paramNat o 3 ≤ l.total ∧ paramNat o 2 ≠ l.staged.length ∧ why = .sequence) →
              exec (.loadPart o) s =
                .next { s with
                  seq := { s.seq with load := none }
                  link := s.heardLink
                  orders := { s.ordersWith o 0x07 why 0 with loadTimer := none } })

/-! ## The orders that move the capture state -/

/-- ARM outside a capture: BUSY during a load, CONFLICT with the first of the six checks that fails, and otherwise every effect of
R43: with the readout's end (R36, R39), the discarded decode queue with its losses and DECODE_LOSS (R132), and the reduction's end
DISCARDED (R150; a W that was never reckoned: log 14). Pending signals and notices are kept. -/
def Obligations.ArmJudged : Prop :=
  ∀ (o : OrderPost) (s : State), s.orderReady o → o.params.length = 0 → s.capturing = false →
    (s.seq.load.isSome = true → exec (.arm o) s = .next (s.onlyAnswered o 0x08 .busy 0))
      ∧ (∀ i, s.seq.load = none → s.armConflict = some i → exec (.arm o) s = .next (s.onlyAnswered o 0x08 .conflict i))
      ∧ (∀ i, s.armConflict = some i ↔ s.failsArmCheck i ∧ ∀ j < i, ¬s.failsArmCheck j)
      ∧ (s.seq.load = none → s.armConflict = none →
          ∃ t, exec (.arm o) s = .next t
            ∧ ArmTaken s t
            ∧ t.orders =
                { s.orders with
                  answers := s.answersWith o 0x08 .ok 0 [] false
                  reportStation := some o.sender
                  notices := s.orders.notices.withLoss (s.streamer.queue.drop s.streamer.inFlight ≠ []) }
            ∧ t.link = s.heardLink ∧ t.time = s.time ∧ t.pfe = s.pfe ∧ t.resetHeld = s.resetHeld
            ∧ t.pending = s.pending)

/-- FORCE_TRIGGER sets the force-pending indication in ARMED alone, and RELEASE moves DONE to IDLE alone. -/
def Obligations.ForceTriggerAndRelease : Prop :=
  ∀ (o : OrderPost) (s : State), s.orderReady o → o.params.length = 0 →
    (s.capture.state = .armed →
        exec (.forceTrigger o) s =
          .next { s with
            capture := { s.capture with forcePending := true }
            link := s.heardLink
            orders := s.ordersWith o 0x09 .ok 0 })
      ∧ (s.capture.state ≠ .armed → exec (.forceTrigger o) s = .next (s.onlyAnswered o 0x09 .state 0))
      ∧ (s.capture.state = .done →
          exec (.release o) s =
            .next { s with
              capture := { s.capture with state := .idle }
              link := s.heardLink
              orders := s.ordersWith o 0x0B .ok 0 })
      ∧ (s.capture.state ≠ .done → exec (.release o) s = .next (s.onlyAnswered o 0x0B .state 0))

/-- ABORT ends a capture with ABORTED, or STORE_LIMIT when the closing run finds no place, stops every block that samples, and
discards the decode queue. A closing run that overwrites is announced. Counters and copy set stay, but that a partner expiry
counted already acts on its gate (log 9). -/
def Obligations.AbortEndsTheCapture : Prop :=
  ∀ (o : OrderPost) (s : State), s.orderReady o → o.params.length = 0 →
    (s.capturing = false → exec (.abort o) s = .next (s.onlyAnswered o 0x0A .state 0))
      ∧ (s.capturing = true →
          ∃ t, exec (.abort o) s = .next t
            ∧ t.capture = { s.capture with
                state := .done, reason := t.capture.reason, armTimer := none, forcePending := false }
            ∧ (t.capture.reason = .aborted ∨ t.capture.reason = .storeLimit)
            ∧ (s.sampler.openRun = none ∨ s.store.records.length < 65536 → t.capture.reason = .aborted)
            ∧ (∀ r, s.sampler.openRun = some r → s.store.records.length < 65536 →
                t.store.records = s.store.records ++ [.run r])
            ∧ (s.sampler.openRun = none →
                t.store = { s.store with placement := [] } ∧ t.readout = s.readout ∧ t.columns = s.columns)
            ∧ (∀ r, s.sampler.openRun = some r → s.place (.run r) = none →
                t.capture.reason = .storeLimit ∧ t.store = { s.store with placement := [] } ∧ t.readout = s.readout
                  ∧ t.columns = s.columns)
            ∧ (∀ r u, s.sampler.openRun = some r → s.place (.run r) = some u →
                t.capture.reason = .aborted ∧ t.store = { u.store with placement := [] } ∧ t.readout = u.readout
                  ∧ t.columns = u.columns)
            ∧ t.store.placement = [] ∧ t.store.trigger = s.store.trigger ∧ t.store.floor = s.store.floor
            ∧ t.sampler = { s.sampler with openRun := none, hold := none, delayLine := [], clockEdges := [] }
            ∧ (∀ d, t.decoders.slots.get d = { s.decoders.slots.get d with phase := .stopped, pendingRun := none })
            ∧ t.decoders.copySet = s.decoders.copySet ∧ CountersStopped s.counters t.counters
            ∧ Discarded s t
            ∧ t.orders =
                { s.orders with
                  answers := s.answersWith o 0x0A .ok 0 [] false
                  notices := (s.orders.notices.setDone t.capture.reason).withLoss
                    (s.streamer.queue.drop s.streamer.inFlight ≠ []) }
            ∧ t.seq = s.seq ∧ t.link = s.heardLink ∧ t.time = s.time ∧ t.pfe = s.pfe ∧ t.resetHeld = s.resetHeld
            ∧ t.freeDraws = s.freeDraws ∧ t.pending = s.pending)

/-- STANDBY: more than 16 members are RANGE, a payload of another length than 4 + count bytes is LENGTH, and outside a capture a
member or an action that names nothing, or a channel named twice, is RANGE. A taken one records the return state, the wake action
and the wake set. -/
def Obligations.StandbyTaken : Prop :=
  ∀ (o : OrderPost) (s : State), s.orderReady o →
    (o.params.length < 2 → exec (.standby o) s = .next (s.onlyAnswered o 0x0C .length 0))
      ∧ (2 ≤ o.params.length → 16 < paramNat o 3 → exec (.standby o) s = .next (s.onlyAnswered o 0x0C .range 0))
      ∧ (2 ≤ o.params.length → paramNat o 3 ≤ 16 → o.params.length ≠ 2 + paramNat o 3 →
          exec (.standby o) s = .next (s.onlyAnswered o 0x0C .length 0))
      ∧ (s.capturing = false → paramNat o 3 ≤ 16 → o.params.length = 2 + paramNat o 3 → ¬standbyFits o →
          exec (.standby o) s = .next (s.onlyAnswered o 0x0C .range 0))
      ∧ (s.capturing = false → paramNat o 3 ≤ 16 → o.params.length = 2 + paramNat o 3 → standbyFits o →
          ∃ t, exec (.standby o) s = .next t
            ∧ t = { s with
                capture := { s.capture with
                  state := .standby, returnState := some s.capture.state, wakeArm := decide (paramNat o 2 = 1) }
                pfe := { s.pfe with wakeSet := t.pfe.wakeSet }
                link := s.heardLink
                orders := s.ordersWith o 0x0C .ok 0 }
            ∧ t.pfe.wakeSet.map (fun m => m.ch.val) = (o.params.drop 2).map (fun b => b.toNat % 64)
            ∧ t.pfe.wakeSet.map (fun m => some m.edge) = (o.params.drop 2).map (fun b => edgeOfCode (b.toNat / 64)))

/-! ## Streaming and reduction orders -/

/-- STREAM: a setting that is neither OFF nor ON, and with ON a mode, T or W that R126 does not list, is RANGE. A taken STREAM ON
streams to its sender under the given mode, with queue and loss counts kept and readiness by age judged afresh. -/
def Obligations.StreamOnTaken : Prop :=
  ∀ (o : OrderPost) (s : State), s.orderReady o → o.params.length = 4 →
    (2 ≤ paramNat o 2 → exec (.streamOn o) s = .next (s.onlyAnswered o 0x0D .range 0))
      ∧ (paramNat o 2 = 1 → ¬streamFits o → exec (.streamOn o) s = .next (s.onlyAnswered o 0x0D .range 0))
      ∧ (paramNat o 2 = 1 → streamFits o →
          ∃ t, exec (.streamOn o) s = .next t
            ∧ t = { s with
                streamer := { s.streamer with
                  on := true
                  dest := some o.sender
                  batch := decide (paramNat o 3 = 1)
                  threshold := paramNat o 4
                  timeout := paramNat o 5
                  ageReached := t.streamer.ageReached }
                link := s.heardLink
                orders := s.ordersWith o 0x0D .ok 0 }
            ∧ (t.streamer.ageReached = true ↔
                ∃ r rest, s.streamer.queue = r :: rest ∧ paramNat o 5 * 40000 ≤ s.time.elapsed - r.entry))

/-- A taken STREAM OFF stops streaming and discards the queue: every record not in flight counts into its slot's losses with
the lost-before figure it carried, and those in flight are marked. -/
def Obligations.StreamOffDiscards : Prop :=
  ∀ (o : OrderPost) (s : State), s.orderReady o → o.params.length = 4 → paramNat o 2 = 0 →
    ∃ t, exec (.streamOff o) s = .next t
      ∧ t = { s with
          streamer := t.streamer
          link := s.heardLink
          orders := { s.ordersWith o 0x0D .ok 0 with notices := t.orders.notices } }
      ∧ t.streamer.on = false ∧ t.streamer.dest = none
      ∧ Discarded s { t with streamer := { t.streamer with on := s.streamer.on, dest := s.streamer.dest } }
      ∧ t.orders.notices = s.orders.notices.withLoss (s.streamer.queue.drop s.streamer.inFlight ≠ [])

/-- REDUCE: RANGE when a field is not one of those listed, then BUSY, then STATE. A taken one is answered with N' and the cells
per column; it ends the sender's current reduction SUPERSEDED (a W that was never reckoned: log 14), and makes a current
reduction of the sender, pass 0, with its snapshot taken at once. With nothing outgoing its first post is composed; otherwise it
waits in STARTING. And what a snapshot holds, and what a pass sees of the store. -/
def Obligations.ReduceJudged : Prop :=
  (∀ (s : State) (p : ReduceParams) (before : Int), s.SnapshotHolds p before (s.snapshot p before))
    ∧ (∀ (s : State) (sn : Snapshot), s.ViewHolds sn (s.passView sn)) ∧
  ∀ (o : OrderPost) (s : State), s.orderReady o → o.params.length = 19 →
    (reduceOf o = none → exec (.reduce o) s = .next (s.onlyAnswered o 0x0E .range 0))
      ∧ (¬reduceFits o → reduceOf o = none)
      ∧ (reduceFits o → ∃ p, reduceOf o = some p ∧ reduceReads o p)
      ∧ ∀ p, reduceOf o = some p →
        (∀ r, s.columns.current = some r → r.owner ≠ o.sender →
            exec (.reduce o) s = .next (s.onlyAnswered o 0x0E .busy 0))
          ∧ ((∀ r, s.columns.current = some r → r.owner = o.sender) → s.lacksReference p →
              exec (.reduce o) s = .next (s.onlyAnswered o 0x0E .state 0))
          ∧ ((∀ r, s.columns.current = some r → r.owner = o.sender) → ¬s.lacksReference p →
              ∃ t r ended, exec (.reduce o) s = .next t
                ∧ t = { s with
                    columns := t.columns
                    freeDraws := t.freeDraws
                    link := s.heardLink
                    orders := { s.orders with
                      answers := s.answersWith o 0x0E .ok 0
                        (beBytes 2 (min p.columns p.span)
                          ++ [BitVec.ofNat 8 ((channelsOf p.channels).length + (slotsOf p.slots).length)]) false } }
                ∧ t.columns.current = some r ∧ r.owner = o.sender ∧ r.params = p ∧ r.pass = 0
                ∧ r.snapshot = s.snapshot p p.offset
                ∧ (s.columns.current = none → s.columns.outgoing = [] → r.phase ≠ .starting)
                ∧ (s.columns.outgoing ≠ [] → r.phase = .starting ∧ t.columns.nextColumn = 0)
                ∧ (s.columns.current = none → ended = s.columns.outgoing)
                ∧ (∀ old, s.columns.current = some old →
                    ∃ free, ended = s.columns.endedList old .superseded free)
                ∧ (ended ≠ [] → r.phase = .starting ∧ t.columns.nextColumn = 0 ∧ t.columns.outgoing = ended)
                ∧ (ended = [] →
                    ∃ post, r.composes s 0 post ∧ r = r.after post ∧ t.columns.outgoing = [post]
                      ∧ t.columns.nextColumn = post.count))

/-- REDUCE_CANCEL: STATE without a current reduction, BUSY from another station; from the owner the reduction ends, in PASSING
with an end post that names the next column, in CLOSING with an end post of the next pass where a repeat would have come, in
WAITING with an end post of the next pass. Under TRIGGER and EPOCH that post carries the W of the pass before; under NEWEST the W
of a pass that never came is free (log 14). -/
def Obligations.ReduceCancelJudged : Prop :=
  ∀ (o : OrderPost) (s : State), s.orderReady o → o.params.length = 0 →
    (s.columns.current = none → exec (.reduceCancel o) s = .next (s.onlyAnswered o 0x0F .state 0))
      ∧ ∀ r, s.columns.current = some r →
        (r.owner ≠ o.sender → exec (.reduceCancel o) s = .next (s.onlyAnswered o 0x0F .busy 0))
          ∧ (r.owner = o.sender →
              ∃ t, exec (.reduceCancel o) s = .next t
                ∧ t = { s with
                    columns := t.columns
                    freeDraws := t.freeDraws
                    link := s.heardLink
                    orders := s.ordersWith o 0x0F .ok 0 }
                ∧ t.columns.current = none ∧ t.columns.nextColumn = s.columns.nextColumn
                ∧ ∃ free, t.columns.outgoing = s.columns.endedList r .cancelled free)

/-! ## The orders that read -/

/-- READ_RECORDS: BUSY when the unit is not FREE, then RANGE for the count and the selection; a taken one puts the unit into
BUILDING, waiting for its answer unless the order named all stations. -/
def Obligations.ReadRecordsJudged : Prop :=
  ∀ (o : OrderPost) (s : State), s.orderReady o → o.params.length = 8 →
    (s.readout ≠ .free → exec (.readRecords o) s = .next (s.onlyAnswered o 0x10 .busy 0))
      ∧ (s.readout = .free → (paramNat o 9 < 1 ∨ 8 < paramNat o 9) →
          exec (.readRecords o) s = .next (s.onlyAnswered o 0x10 .range 0))
      ∧ (s.readout = .free → 1 ≤ paramNat o 9 → paramNat o 9 ≤ 8 →
          (∀ sel, selectionReads o sel → s.store.resolve sel (paramNat o 9) = none) →
          exec (.readRecords o) s = .next (s.onlyAnswered o 0x10 .range 0))
      ∧ (∀ sel x, s.readout = .free → 1 ≤ paramNat o 9 → paramNat o 9 ≤ 8 → selectionReads o sel →
          s.store.resolve sel (paramNat o 9) = some x →
          exec (.readRecords o) s =
            .next { s with
              readout := .building ⟨o.sender, x.first, x.want, paramNat o 9, x.downward, [], !o.toAll⟩
              link := s.heardLink
              orders := { s.orders with answers := s.answersWith o 0x10 .ok 0 [] true } })

/-- The start selections of READ_RECORDS: which record each names, and when it names none. -/
def Obligations.StartSelections : Prop :=
  ∀ (st : Store) (count : Nat), st.records.length ≤ st.nextSeq → 1 ≤ count →
    let oldest := st.nextSeq - st.records.length
    (∀ q, st.resolve (.atSeq q) count = if oldest ≤ q ∧ q < st.nextSeq then some ⟨q, count, false⟩ else none)
      ∧ st.resolve .oldest count = (if st.records = [] then none else some ⟨oldest, count, false⟩)
      ∧ st.resolve .newest count = (if st.records = [] then none else some ⟨st.nextSeq - 1, count, false⟩)
      ∧ (st.trigger = none → st.resolve .trigger count = none)
      ∧ (∀ p, st.trigger = some p →
          st.resolve .trigger count =
            if oldest ≤ p.sequence ∧ p.sequence < st.nextSeq then some ⟨p.sequence, count, false⟩ else none)
      ∧ (st.lastRef = none →
          st.resolve .same count = none ∧ st.resolve .next count = none ∧ st.resolve .previous count = none)
      ∧ ∀ r, st.lastRef = some r →
        st.resolve .same count = (if oldest ≤ r ∧ r < st.nextSeq then some ⟨r, count, false⟩ else none)
          ∧ st.resolve .next count = (if oldest ≤ r + 1 ∧ r + 1 < st.nextSeq then some ⟨r + 1, count, false⟩ else none)
          ∧ st.resolve .previous count =
              (if oldest < r ∧ r ≤ st.nextSeq then some ⟨max (r - count) oldest, r - max (r - count) oldest, true⟩
               else none)

/-- SEARCH outside a capture: BUSY, then RANGE (log 18 for the bytes a criterion does not read). A taken one starts a walk at the
record that the pointer and the direction give; with no such record the walk ends at once and NOT_FOUND is held for the sender,
with a first sequence that is free (log 13). Stated for stores whose retained records are numbered from 0 or more (R20). -/
def Obligations.SearchJudged : Prop :=
  ∀ (o : OrderPost) (s : State), s.orderReady o → o.params.length = 8 → s.capturing = false →
    (s.readout ≠ .free → exec (.search o) s = .next (s.onlyAnswered o 0x11 .busy 0))
      ∧ (s.readout = .free → (∀ d c, ¬searchReads o d c) →
          exec (.search o) s = .next (s.onlyAnswered o 0x11 .range 0))
      ∧ (∀ d c start, s.readout = .free → searchReads o d c →
          s.store.records.length ≤ s.store.nextSeq → s.store.walkBegins d start →
          exec (.search o) s =
            .next { s with
              readout := .walking ⟨o.sender, c, d, start⟩
              link := s.heardLink
              orders := s.ordersWith o 0x11 .ok 0 })
      ∧ (∀ d c, s.readout = .free → searchReads o d c →
          s.store.records.length ≤ s.store.nextSeq → (∀ start, ¬s.store.walkBegins d start) →
          ∃ t first, exec (.search o) s = .next t
            ∧ t = { s with
                readout := .holding ⟨o.sender, first, [], false, false, false, true⟩
                freeDraws := t.freeDraws
                link := s.heardLink
                orders := s.ordersWith o 0x11 .ok 0 })

/-- A QUERY of a code up to 7 answers the common part and the part named, empties the activity set and changes nothing else; a
higher code is RANGE. Of the fields of a part, those given in steps may round up or down by a free value (log 15), and those
without a value at the moment are absent, all ones (log 16). Every field of every part stands where R176 puts it. -/
def Obligations.QueryTaken : Prop :=
  ∀ (o : OrderPost) (s : State), s.orderReady o → o.params.length = 1 →
    (7 < paramNat o 2 → exec (.query o) s = .next (s.onlyAnswered o 0x12 .range 0))
      ∧ (paramNat o 2 ≤ 7 →
          let common := [paramByte o 2, s.capture.state.code, s.capture.reason.code] ++ beBytes 6 s.time.tick
            ++ beBytes 2 s.pfe.rawLevels.toNat ++ beBytes 2 s.pfe.activity.toNat
            ++ beBytes 2 s.orders.notices.bits ++ [if s.link.state = .linkFault then 1 else 0]
          let part := s.queryPart (paramNat o 2)
          exec (.query o) s =
              .next { s with
                pfe := { s.pfe with activity := 0 }
                freeDraws := s.freeDraws + (if paramNat o 2 = 5 ∨ paramNat o 2 = 6 then 1 else 0)
                link := s.heardLink
                orders := { s.orders with answers := s.answersWith o 0x12 .ok 0 (common ++ part) false } }
            ∧ (∃ up, part = fieldBytes (s.partFields up (paramNat o 2)))
            ∧ common.length = 16
            ∧ part.length = [26, 33, 25, 15, 40, 15, 30, 12].getD (paramNat o 2) 0)

/-- READ_FAULT answers the fault record with its read indication and then marks it read; CLEAR_FAULT empties it and takes the
FAULT notice back. That a READ_FAULT to all stations, which gets no answer, marks the record too is the model's choice (log 43). -/
def Obligations.FaultOrders : Prop :=
  ∀ (o : OrderPost) (s : State), s.orderReady o → o.params.length = 0 →
    (s.orders.fault = none →
        exec (.readFault o) s =
            .next { s with
              link := s.heardLink
              orders := { s.orders with answers := s.answersWith o 0x13 .ok 0 (List.replicate 11 0) false } }
          ∧ exec (.clearFault o) s = .next (s.onlyAnswered o 0x14 .ok 0))
      ∧ ∀ f, s.orders.fault = some f →
        exec (.readFault o) s =
            .next { s with
              link := s.heardLink
              orders := { s.orders with
                fault := some { f with read := true }
                answers := s.answersWith o 0x13 .ok 0
                  ([1] ++ beBytes 6 f.tick ++ [BitVec.ofNat 8 f.postClass, f.capture.code, BitVec.ofNat 8 f.further,
                    if f.read then 1 else 0]) false } }
          ∧ exec (.clearFault o) s =
              .next { s with
                link := s.heardLink
                orders := { s.ordersWith o 0x14 .ok 0 with
                  fault := none
                  notices := { s.orders.notices with fault := false } } }

/-- A RESET order restores every reset value but the straps, the tick counter and the fault record, whatever the answer list
holds and in STANDBY too, and is answered OK in the emptied list. -/
def Obligations.ResetOrderRestoresTheNode : Prop :=
  ∀ (o : OrderPost) (s : State), s.receives = true → o.params.length = 0 →
    ∃ t, exec (.reset o) s = .next t
      ∧ t = { State.reset with
          time := s.time
          pfe := { State.reset.pfe with inputs := s.pfe.inputs }
          link := { State.reset.link with
            strapReading := s.link.strapReading, station := s.link.station, rate := s.link.rate }
          orders := { State.reset.orders with
            answers := if o.toAll then [] else [⟨o.sender, 0x15, o.tag, .ok, 0, [], false⟩]
            notices := t.orders.notices
            fault := s.orders.fault }
          resetHeld := s.resetHeld
          freeDraws := s.freeDraws
          pending := s.pending }
      ∧ ∀ k, t.orders.notices.holds k
          = (k == .present || (k == .fault && (match s.orders.fault with | some f => !f.read | none => false)))

/-! ## Posts heard -/

/-- A SIGNAL receipt with flags joins the placement list of a running capture, or merges into its newest entry when eight wait;
otherwise it changes nothing. -/
def Obligations.SignalReceiptIsPlaced : Prop :=
  ∀ (sender : Station) (flags : FlagSet) (origin : BitVec 48) (s : State), s.receives = true →
    ((s.capturing = false ∨ flags = 0) → exec (.signalReceipt sender flags origin) s = .next { s with link := s.heardLink })
      ∧ (s.capturing = true → flags ≠ 0 → s.store.placement.length < 8 →
          exec (.signalReceipt sender flags origin) s =
            .next { s with
              link := s.heardLink
              store := { s.store with
                placement := s.store.placement ++ [⟨⟨sender.val, by omega⟩, flags, origin.toNat, s.time.tick⟩] } })
      ∧ (∀ rest e, s.capturing = true → flags ≠ 0 → 8 ≤ s.store.placement.length → s.store.placement = rest ++ [e] →
          exec (.signalReceipt sender flags origin) s =
            .next { s with
              link := s.heardLink
              store := { s.store with
                placement := rest ++
                  [⟨if e.sender.val = sender.val then e.sender else 15, e.flags ||| flags, min e.origin origin.toNat,
                    s.time.tick⟩] } })

/-- A MARK sets the tick counter outside a capture and touches nothing else, and the counter counts on from there; in ARMED
or TRIGGERED the counter is not moved and EPOCH_SKIPPED is set pending with the sender, T0 and the receipt tick. -/
def Obligations.MarkSetsTheTickOrIsSkipped : Prop :=
  ∀ (sender : Station) (t0 : BitVec 48) (s : State), s.receives = true →
    (s.capturing = false →
        exec (.mark sender t0) s = .next { s with link := s.heardLink, time := ⟨t0.toNat, s.time.elapsed⟩ }
          ∧ (State.passTick { s with link := s.heardLink, time := ⟨t0.toNat, s.time.elapsed⟩ }).time.tick
            = min (t0.toNat + 1) (2 ^ 48 - 1))
      ∧ (s.capturing = true →
          exec (.mark sender t0) s =
            .next { s with
              link := s.heardLink
              orders := { s.orders with
                notices := { s.orders.notices with
                  epochSkipped := some ⟨sender, t0.toNat, s.time.tick⟩
                  setAgain := s.orders.notices.setAgain || s.orders.notices.flying == some .epochSkipped } } })

/-- A post that fails a check is discarded, and one that the node does not take is set aside, with no effect but the busy line.
The command carries the bytes as heard (log 21). An accepted post has its length, its check, its sender, its destination byte
and its all-flag right. -/
def Obligations.PostsAreDiscardedOrSetAside : Prop :=
  (∀ (bytes : List Byte) (s : State), s.receives = true →
      (acceptPost bytes = none → exec (.postDiscarded bytes) s = .next { s with link := s.heardLink })
        ∧ ∀ p, acceptPost bytes = some p →
          (p.cls ≠ 0 → p.cls ≠ 1 → p.cls ≠ 3 → exec (.postDiscarded bytes) s = .next { s with link := s.heardLink })
            ∧ (p.cls = 3 → p.dest ≠ 15 → p.dest ≠ s.link.station.val →
                exec (.postDiscarded bytes) s = .next { s with link := s.heardLink }))
    ∧ ∀ (bytes : List Byte) (p : HeardPost), acceptPost bytes = some p →
      p.payload.length ≤ 128 ∧ p.payload.length + 5 ≤ bytes.length
        ∧ p.payload = (bytes.drop 3).take (bytes.getD 2 0).toNat ∧ p.payload.length = (bytes.getD 2 0).toNat
        ∧ (bytes.drop (p.payload.length + 3)).take 2
            = beBytes 2 (postCheck (bytes.take (p.payload.length + 3))).toNat
        ∧ p.sender < 15 ∧ p.dest ≤ 15 ∧ (p.allFlag = true ↔ p.dest = 15)
        ∧ (p.cls = 1 → p.payload.length = 7) ∧ (p.cls = 0 → p.payload.length = 6)

/-- Every post that a station frames is accepted, field by field: the header, payload and check of R156 read back. -/
def Obligations.FramedPostsAreAccepted : Prop :=
  ∀ (cls : Nat) (sender : Station) (dest : Option Station) (payload : List Byte), cls < 8 → payload.length ≤ 128 →
    (cls = 1 → payload.length = 7) → (cls = 0 → payload.length = 6) →
    acceptPost (framePost cls sender dest payload) =
      some ⟨cls, sender.val, dest.isNone, (match dest with | none => 15 | some d => d.val), payload⟩

/-! ## Probe inputs and samples -/

/-- A transition of an enabled channel joins the activity set. In a timing capture it counts towards the glitch mask. In a state
capture a clock transition cancels a pending HOLD sample whose ticks it falls in, and waits to be examined, with its stamp and the
qualifier's level (log 4); one of the qualifier channel changes that level at the ticks of the waiting edges from its stamp on
(log 4). In STANDBY one that is no wake edge does nothing more. An input (log 5) that crosses no threshold, or a disabled channel,
changes the input alone. The miss that a cancelled HOLD sample leaves to be marked is log 20's. -/
def Obligations.TransitionIsRecorded : Prop :=
  ∀ (ch : Channel) (mv : Int) (s : State), s.resetHeld = false →
    let threshold := s.pfe.thresholds.get (groupOf ch) * 25
    let moves := decide (threshold < s.pfe.inputs[ch.val]) != decide (threshold < mv) && s.pfe.enabled.getLsbD ch.val
    let input := { s.pfe with inputs := s.pfe.inputs.set ch.val mv }
    let moved := { input with activity := s.pfe.activity ||| (1#16 <<< ch.val) }
    let level := decide (threshold < mv) != s.pfe.inverted.getLsbD ch.val
    let stamp :=
      if s.sampler.levelsRead.map LevelsRead.tick = some s.time.tick ∧ s.time.tick < 2 ^ 48 - 1 then s.time.tick + 1
      else s.time.tick
    let counted := { s.sampler with
      movedTwice := s.sampler.movedTwice ||| (s.sampler.movedOnce &&& (1#16 <<< ch.val))
      movedOnce := s.sampler.movedOnce ||| (1#16 <<< ch.val) }
    let edge : ClockEdge :=
      ⟨stamp, level, match s.sampler.settings.qualifier with | none => true | some q => hasChannel moved.levels q⟩
    (moves = false → exec (.transition ch mv) s = .next { s with pfe := input })
      ∧ (moves = true → s.capturing = false → s.capture.state ≠ .standby →
          exec (.transition ch mv) s = .next { s with pfe := moved })
      ∧ (moves = true → s.capture.state = .standby → (∀ m ∈ s.pfe.wakeSet, m.ch = ch → m.edge.takes level = false) →
          exec (.transition ch mv) s = .next { s with pfe := moved })
      ∧ (moves = true → s.capturing = true → s.sampler.record.mode = .timing →
          exec (.transition ch mv) s = .next { s with pfe := moved, sampler := counted })
      ∧ (moves = true → s.capturing = true → s.sampler.record.mode = .state →
          (s.sampler.settings.clockChannel = ch → s.sampler.hold = none →
              exec (.transition ch mv) s =
                .next { s with
                  pfe := moved, sampler := { counted with clockEdges := s.sampler.clockEdges ++ [edge] } })
            ∧ (∀ h, s.sampler.settings.clockChannel = ch → s.sampler.hold = some h →
                (h.edgeTick < stamp ∧ stamp ≤ h.due →
                    exec (.transition ch mv) s =
                      .next { s with
                        pfe := moved
                        sampler := { counted with
                          clockEdges := s.sampler.clockEdges ++ [edge]
                          hold := none
                          missSinceTaken := s.sampler.missSinceTaken || h.afterMiss } })
                  ∧ (¬(h.edgeTick < stamp ∧ stamp ≤ h.due) →
                    exec (.transition ch mv) s =
                      .next { s with
                        pfe := moved, sampler := { counted with clockEdges := s.sampler.clockEdges ++ [edge] } }))
            ∧ (s.sampler.settings.clockChannel ≠ ch → s.sampler.settings.qualifier = some ch →
                exec (.transition ch mv) s =
                  .next { s with
                    pfe := moved
                    sampler := { counted with
                      clockEdges := s.sampler.clockEdges.map
                        (fun e => if stamp ≤ e.tick then { e with qualifier := level } else e) } })
            ∧ (s.sampler.settings.clockChannel ≠ ch → s.sampler.settings.qualifier ≠ some ch →
                exec (.transition ch mv) s = .next { s with pfe := moved, sampler := counted }))

/-- The first wake edge in STANDBY returns the node and sets the ACTIVITY notice. With wake action NONE, or an ARM that fails, nothing
else changes; with wake action ARM it arms the node as R43 gives, but for the report station. -/
def Obligations.WakeEdgeEndsStandby : Prop :=
  ∀ (ch : Channel) (mv : Int) (s : State) (m : WakeMember), s.resetHeld = false → s.capture.state = .standby →
    s.capture.standbyConsistent → m ∈ s.pfe.wakeSet → m.ch = ch → s.pfe.enabled.getLsbD ch.val = true →
    let threshold := s.pfe.thresholds.get (groupOf ch) * 25
    let level := decide (threshold < mv) != s.pfe.inverted.getLsbD ch.val
    let returned := { s with
      pfe := { s.pfe with inputs := s.pfe.inputs.set ch.val mv, activity := s.pfe.activity ||| (1#16 <<< ch.val) }
      capture := { s.capture with state := s.capture.returnState.getD .idle, returnState := none } }
    let reported (n : NoticeSet) (result : WakeResult) (cause : Nat) : NoticeSet :=
      { n with
        activity := some ⟨ch, level, s.time.tick, result, cause⟩
        setAgain := n.setAgain || n.flying == some .activity }
    let stays (result : WakeResult) (cause : Nat) : State :=
      { returned with orders := { s.orders with notices := reported s.orders.notices result cause } }
    decide (threshold < s.pfe.inputs[ch.val]) ≠ decide (threshold < mv) → m.edge.takes level = true →
    (s.capture.wakeArm = false → exec (.transition ch mv) s = .next (stays .none 0))
      ∧ (s.capture.wakeArm = true → s.seq.load.isSome = true → exec (.transition ch mv) s = .next (stays .armFailed 7))
      ∧ (∀ i, s.capture.wakeArm = true → s.seq.load = none → returned.failsArmCheck i →
          (∀ j < i, ¬returned.failsArmCheck j) → exec (.transition ch mv) s = .next (stays .armFailed i))
      ∧ (s.capture.wakeArm = true → s.seq.load = none → (∀ i, ¬returned.failsArmCheck i) →
          ∃ t, exec (.transition ch mv) s = .next t ∧ ArmTaken returned t
            ∧ t.orders = { s.orders with
                notices := reported
                  (s.orders.notices.withLoss (s.streamer.queue.drop s.streamer.inFlight ≠ [])) .armed 0 }
            ∧ t.link = s.link ∧ t.time = s.time ∧ t.pfe = returned.pfe ∧ t.resetHeld = s.resetHeld
            ∧ t.pending = s.pending)

/-- In a timing capture the tick of a whole multiple of D brings one sample. The run former, the decoders, the counters, the
sequencer, the store and the Streamer handle it, as SampleHandled says of each. -/
def Obligations.GridSampleIsTaken : Prop :=
  ∀ s : State, s.resetHeld = false → s.capturing = true → s.sampler.record.mode = .timing →
    s.time.tick % s.sampler.record.divisor = 0 → s.sampler.lastSampleTick ≠ some s.time.tick →
    ∃ t, exec .sample s = .next t ∧ SampleHandled s false t

/-- A clock transition is ignored when it is no qualified active edge, missed when it comes less than 2 ticks after the previous
taken edge, and otherwise taken: sampled at once, held, or put on the delay line. The qualifier's level is that of the edge's
tick, and an active edge with a qualifier reads the levels of its tick (log 4). The miss mark is log 20's. -/
def Obligations.ClockEdgeIsExamined : Prop :=
  ∀ (s : State) (e : ClockEdge) (rest : List ClockEdge), s.resetHeld = false → s.capturing = true →
    s.sampler.clockEdges = e :: rest → e.tick ≤ s.time.tick →
    let c := s.sampler.settings
    let active := c.clockEdge.takes e.level
    let qualified := c.qualifier.isNone || e.qualifier == c.qualifyingLevel
    let spaced := match s.sampler.lastTaken with | none => true | some p => decide (p + 2 ≤ e.tick)
    let td := c.tdFactor * c.tdMultiplier
    let examined := { s.sampler with
      clockEdges := rest, levelsRead := if c.qualifier.isSome then some ⟨s.time.tick, s.tickLevels⟩ else s.sampler.levelsRead }
    (active = false → exec .activeEdge s = .next { s with sampler := { s.sampler with clockEdges := rest } })
      ∧ (active = true → qualified = false → exec .activeEdge s = .next { s with sampler := examined })
      ∧ (active = true → qualified = true → spaced = false →
          exec .activeEdge s =
            .next { s with
              sampler := { examined with missed := min 65535 (s.sampler.missed + 1), missSinceTaken := true }
              orders := { s.orders with notices := s.orders.notices.setStateOverrun } })
      ∧ (active = true → qualified = true → spaced = true → c.clockType = .hold →
          exec .activeEdge s =
            .next { s with
              sampler := { examined with
                lastTaken := some e.tick
                missSinceTaken := false
                hold := some ⟨e.tick, e.tick + td, e.level, s.sampler.missSinceTaken⟩ } })
      ∧ (active = true → qualified = true → spaced = true → c.clockType = .delayed → td ≠ 0 →
          exec .activeEdge s =
            .next { s with
              sampler := { examined with
                lastTaken := some e.tick
                missSinceTaken := false
                delayLine := s.sampler.delayLine ++ [⟨e.tick + td, s.sampler.missSinceTaken⟩] } })
      ∧ (active = true → qualified = true → spaced = true →
          (c.clockType = .edge ∨ c.clockType = .delayed ∧ td = 0) →
          ∃ t, exec .activeEdge s = .next t ∧ SampleHandled s s.sampler.missSinceTaken t
            ∧ t.sampler.lastTaken = some e.tick ∧ t.sampler.missSinceTaken = false
            ∧ (t.capture.state ≠ .done → t.sampler.clockEdges = rest))

/-- A pending HOLD sample completes at its due tick while the clock holds its active level, and is cancelled otherwise; the
oldest entry of the delay line completes at its due tick. Either way it is pending no more. The mark that an edge was missed
before its own, which goes on to the next sample when a HOLD sample is cancelled, is log 20's. -/
def Obligations.DueStateSamplesComplete : Prop :=
  ∀ s : State, s.resetHeld = false → s.capturing = true →
    (∀ h, s.sampler.hold = some h → h.due ≤ s.time.tick →
        (hasChannel s.tickLevels s.sampler.settings.clockChannel = h.activeLevel →
            ∃ t, exec .holdSampleDue s = .next t ∧ SampleHandled s h.afterMiss t ∧ t.sampler.hold = none)
          ∧ (hasChannel s.tickLevels s.sampler.settings.clockChannel ≠ h.activeLevel →
              exec .holdSampleDue s =
                .next { s with
                  sampler := { s.sampler with
                    hold := none, missSinceTaken := s.sampler.missSinceTaken || h.afterMiss } }))
      ∧ ∀ e rest, s.sampler.delayLine = e :: rest → e.due ≤ s.time.tick →
        ∃ t, exec .delayLineDue s = .next t ∧ SampleHandled s e.afterMiss t
          ∧ (t.capture.state = .done → t.sampler.delayLine = [])
          ∧ (t.capture.state ≠ .done → t.sampler.delayLine.map DelayEntry.due = rest.map DelayEntry.due)

/-- An INTERLOCKED word that meets no acknowledge edge by the sample at latch index + T completes there with STALL. The sample
at that index is the one due on the timing grid (log 7). This first part is stated for timing mode and slots without run prefixing;
what a STROBED slot does at any sample, in either mode and through run prefixing, is the last part, and what a CLOCKED slot does
the one before it. Where a strobe active edge meets the acknowledge or the timeout of an INTERLOCKED word at one sample, the word
completes and that edge begins none (log 37). -/
def Obligations.InterlockedTimeoutStalls : Prop :=
  (∀ (s : State) (slot : Fin 4) (c : StrobedSettings) (a : AckSettings) (start index : Nat)
    (word : BitVec 16 × RecKind), s.resetHeld = false → s.capturing = true → s.sampler.record.mode = .timing →
    s.time.tick % s.sampler.record.divisor = 0 → s.sampler.lastSampleTick ≠ some s.time.tick →
    (s.decoders.slots.get slot).kind = .strobed c → c.ack = some a → c.runPrefixing = false →
    (s.decoders.slots.get slot).phase = .inWord (.strobed start index (some word)) →
    s.sampler.nextIndex = index + a.timeout → s.readSample.movesTo a.line.ch a.line.active = false →
    ∃ t, exec (.interlockedTimeout slot) s = .next t ∧ SampleHandled s false t
      ∧ (⟨slot, word.2, word.1, c.width, none, start, min (s.time.tick - start) (2 ^ 32 - 1), { stall := true }⟩ :
          DecodeRecord) ∈ s.decoders.completed s.readSample)
    ∧ (∀ c : ClockedSettings, c.framesWell) ∧ ∀ c : StrobedSettings, c.framesWell

/-! ## Counters, capture ends, timers -/

/-- The TICK occurrence that brings a COUNT counter to its reload is its expiry, and the one that brings a PERIOD or open GATED
counter to 65,535 its overflow; any other raises the value by 1. An expiry hands a GATED partner the gate signal (which acts once
the tick's occurrences are counted: log 9); the other counters stay. A cascaded pair counts as one counter of 32 bits, up to Rc or
Rc - 1 (a PERIOD pair with Rc = 1: log 42). The two commands stand for one TICK occurrence (log 8). How the bank handles a sample,
a RESTART and a capture end: every counter's occurrence, gate and capture, and what the sequencer is handed. -/
def Obligations.TickCountersExpireAndOverflow : Prop :=
  (∀ (b : CounterBank) (x : Sample), b.HandlesWell x)
    ∧ (∀ (b : CounterBank) (set : BitVec 4) (tick : Nat), b.RestartsWell set tick)
    ∧ (∀ b : CounterBank, CountersStopped b b.stop) ∧
  ∀ (s : State) (k : Fin 4) (i : Instr), s.resetHeld = false → s.capturing = true →
    (s.counters.k.get k).ticksAt s.time.tick = true →
    ((s.counters.k.get k).settings.mode = .count ∧ i = .counterExpiry k)
      ∨ (((s.counters.k.get k).settings.mode = .period ∨ (s.counters.k.get k).settings.mode = .gated)
        ∧ i = .counterOverflow k) →
    let c := s.counters.k.get k
    let p := partnerOf k
    ∃ t, exec i s = .next t ∧ t = { s with counters := t.counters }
      ∧ t.counters.cascade01 = s.counters.cascade01 ∧ t.counters.cascade23 = s.counters.cascade23
      ∧ (∀ j, j ≠ k → j ≠ p → t.counters.k.get j = s.counters.k.get j)
      ∧ (¬s.counters.paired k →
          t.counters.k.get k = { c.counts with countedTo := s.time.tick }
            ∧ t.counters.k.get p =
              { s.counters.k.get p with
                gateDue := (s.counters.k.get p).gateDue
                  || ((s.counters.k.get p).settings.mode == .gated && c.expiresNext) })
      ∧ (s.counters.paired k → k = 0 ∨ k = 2 → c.settings.mode ≠ .gated →
          PairHandled c (s.counters.k.get p) (t.counters.k.get k) (t.counters.k.get p) true false)

/-- The sample that brings the post-depth countdown to 0 is the last one of the capture, which ends with DEPTH, or STORE_LIMIT
when a record finds no place. Stated for the grid sample of a timing capture (log 7). -/
def Obligations.DepthEndsTheCapture : Prop :=
  ∀ s : State, s.resetHeld = false → s.capture.state = .triggered → s.capture.countdown = 1 →
    s.sampler.record.mode = .timing → s.time.tick % s.sampler.record.divisor = 0 →
    s.sampler.lastSampleTick ≠ some s.time.tick →
    ∃ t, exec .depth s = .next t ∧ SampleHandled s false t ∧ t.capture.state = .done ∧ t.capture.countdown = 0
      ∧ (t.capture.reason = .depth ∨ t.capture.reason = .storeLimit)
      ∧ t.orders.notices.done = some t.capture.reason ∧ t.sampler.openRun = none

/-- The arm-limit timer ends an ARMED capture with NO_TRIGGER, and the last tick any capture with TIME_LIMIT; a closing run that
finds no place makes the reason STORE_LIMIT, and one that overwrites is announced. The counters, the copy set and all else stay,
but that a partner expiry counted already acts on its gate (log 9). -/
def Obligations.TimersEndTheCapture : Prop :=
  ∀ s : State, s.resetHeld = false →
    (∀ x, s.capture.state = .armed → s.capture.armTimer = some x → x ≤ s.time.tick →
        ∃ t, exec .noTrigger s = .next t ∧ CaptureEnded s .noTrigger t)
      ∧ (s.capturing = true → s.time.tick = 2 ^ 48 - 1 →
          ∃ t, exec .timeLimit s = .next t ∧ CaptureEnded s .timeLimit t)

/-- The three timers of elapsed time (logs 11 and 33): a load is abandoned with its notice, a BATCH post becomes ready by age, and
the next pass of a repeating reduction begins with its first post composed. -/
def Obligations.ElapsedTimersAct : Prop :=
  ∀ s : State, s.resetHeld = false →
    (∀ x l, s.orders.loadTimer = some x → x ≤ s.time.elapsed → s.seq.load = some l →
        exec .loadTimeout s =
          .next { s with
            seq := { s.seq with load := none }
            orders := { s.orders with
              loadTimer := none
              notices := s.orders.notices.setLoadTimeout ⟨l.owner, l.total, l.staged.length⟩ } })
      ∧ (∀ r rest, s.streamer.on = true → s.streamer.batch = true → s.streamer.ageReached = false →
          s.streamer.queue = r :: rest → s.streamer.timeout * 40000 ≤ s.time.elapsed - r.entry →
          exec .batchTimeout s = .next { s with streamer := { s.streamer with ageReached := true } })
      ∧ (∀ r x, s.columns.current = some r → r.phase = .waiting x → x ≤ s.time.elapsed →
          ∃ (r' : Reduction) (post : ColumnsPost), r'.owner = r.owner ∧ r'.params = r.params ∧ r'.pass = (r.pass + 1) % 256
            ∧ r'.snapshot = s.snapshot r.params r.snapshot.window ∧ r'.composes s 0 post ∧ r' = r'.after post
            ∧ exec .repeatTimerExpiry s =
                .next { s with columns := ⟨some r', post.count, s.columns.outgoing ++ [post]⟩ })

/-! ## The readout unit -/

/-- A building read copies its next record in sequence, closes with END when the retained records run out, and enters HOLDING
with its last record; the pointer follows the far end of the read. One command copies one record (log 34), and the end of the
records is found by the command after the last copy (log 26). A record overwritten before its copy closes the read with
OVERWRITTEN (log 38). -/
def Obligations.ReadBuildCopiesRecords : Prop :=
  ∀ (s : State) (j : ReadJob), s.resetHeld = false → s.readout = .building j → j.waitsForAnswer = false →
    let next := j.firstSeq + j.copied.length
    let farEnd :=
      if j.copied = [] then s.store.lastRef else some (if j.downward then j.firstSeq else next - 1)
    (s.store.nextSeq ≤ next →
        exec .readBuild s =
          .next { s with
            readout := .holding ⟨j.dest, j.firstSeq, j.copied, true, false, false, false⟩
            store := { s.store with lastRef := farEnd } })
      ∧ (next < s.store.nextSeq - s.store.records.length →
          exec .readBuild s =
            .next { s with
              readout := .holding ⟨j.dest, j.firstSeq, j.copied, false, true, false, false⟩
              store := { s.store with lastRef := farEnd } })
      ∧ ∀ r, s.store.recordAt next = some r → next < s.store.nextSeq →
        (j.copied.length + 1 < j.want →
            exec .readBuild s = .next { s with readout := .building { j with copied := j.copied ++ [r] } })
          ∧ (j.want ≤ j.copied.length + 1 →
              exec .readBuild s =
                .next { s with
                  readout := .holding
                    ⟨j.dest, j.firstSeq, j.copied ++ [r], decide (j.want < j.count), false, false, false⟩
                  store := { s.store with
                    lastRef := some (if j.downward then j.firstSeq else next) } })

/-- A walk ends at the first retained record from its start on, in its direction, that meets its criterion, which the pointer then
names; with none it ends NOT_FOUND, with the sequence it started at and the pointer as it was. Either way the post is held for its
station. One command stands for the whole walk: the match is found at its end (log 34). Stated for stores whose retained records
are numbered from 0 or more (R20). -/
def Obligations.SearchWalkEnds : Prop :=
  ∀ (s : State) (j : WalkJob), s.resetHeld = false → s.readout = .walking j →
    s.store.records.length ≤ s.store.nextSeq →
    (∀ q r, s.store.walkEnds j q → s.store.recordAt q = some r →
        exec .searchWalkEnd s =
          .next { s with
            readout := .holding ⟨j.dest, q, [r], false, false, false, false⟩
            store := { s.store with lastRef := some q } })
      ∧ ((∀ q, ¬s.store.walkEnds j q) →
          exec .searchWalkEnd s =
            .next { s with readout := .holding ⟨j.dest, j.start, [], false, false, false, true⟩ })

/-! ## The link -/

/-- The line idle for 11 bit times lets a JOINING controller run, and the posts that are ready may start; the retry wait is counted
from that instant, and repeating the event moves nothing further (log 12). -/
def Obligations.LineIdleLetsTheNodeRun : Prop :=
  ∀ s : State, s.resetHeld = false → s.link.flight = none →
    ∃ t, exec .lineIdle s = .next t
      ∧ t = { s with
          link := { s.link with
            state := if s.link.state = .joining then .running else s.link.state
            idleSince := some (s.link.idleSince.getD s.time.elapsed)
            offered := t.link.offered } }
      ∧ (s.link.idleSince ≠ none → t.link.offered = s.link.offered)
      ∧ (s.link.idleSince = none → ∀ source, source ∈ t.link.offered ↔ s.holdsPost source)

/-- At a bit time of an idle line a RUNNING controller starts a post, and lets no tick pass before it does: of the posts that were
ready when the line became idle or before this instant, the one of lowest class, whole and framed, its payload laid out by its
source. While the retry wait stands it starts none before 64 further bit times, and with no such post none at all. The bit times
are counted from the instant the line became idle, and that a post which becomes ready at the very instant of a start is not in its
choice (of a SIGNAL, R186 says so) is the model's (log 12). A BATCH post is ready by age once BATCH_TIMEOUT has run (log 33). A
start that is not allowed changes nothing (log 2). The order of the events due at one tick is log 10's. -/
def Obligations.MostUrgentPostStarts : Prop :=
  (∀ s : State, ¬s.startAllowed → exec .postStart s = .next s)
    ∧ (∀ s : State, s.startAllowed →
      (∀ source, s.mayOffer source → (∀ other, s.mayOffer other → source.cls ≤ other.cls) →
          ∃ t, exec .postStart s = .next t ∧ s.started source t)
        ∧ ((∀ source, ¬s.mayOffer source) → exec .postStart s = .next s)
        ∧ ((∃ source, s.mayOffer source) → s.dueEvent ≠ none))
    ∧ payloadsStand ∧ codesStand

/-- A post is sent in full 9 bit times for each of its bytes after its start, and not before (log 2). It then sets the collision
count to 0 and clears its source: the in-flight flags, the notice's kind unless it was set again, the oldest answer, the held
RECORDS post, the streamed records, or the head of the outgoing list, after which the Column Engine composes the pass's next post,
waits, ends, or begins the pass in STARTING with a fresh snapshot (log 19). Where several records were lost at this very instant,
how many of them came after the places were freed is a free value (R125, log 40). -/
def Obligations.SentInFullClearsTheSource : Prop :=
  ∀ (s : State) (f : Flight), s.link.flight = some f →
    let ends := f.started + 9 * f.bytes.length * ([64, 32, 16, 8] : List Nat).getD s.link.rate.toNat 0
    let link := { s.link with flight := none, collisions := 0, idleSince := none }
    (s.time.elapsed < ends → exec .sentInFull s = .next s)
      ∧ (ends ≤ s.time.elapsed →
        (f.source = .signal →
            exec .sentInFull s = .next { s with link := { link with flightPart := ⟨0, none⟩ } })
          ∧ (∀ k, f.source = .notice → s.orders.notices.flying = some k →
              ∃ t, exec .sentInFull s = .next t
                ∧ t = { s with link := link, orders := { s.orders with notices := t.orders.notices } }
                ∧ t.orders.notices.flying = none
                ∧ ∀ k', t.orders.notices.holds k'
                    = (s.orders.notices.holds k' && (k' != k || s.orders.notices.setAgain)))
          ∧ (∀ a rest, f.source = .answer → s.orders.answers = a :: rest →
              exec .sentInFull s =
                .next { s with
                  link := link
                  orders := { s.orders with answers := rest }
                  readout := match s.readout with
                    | .building j => if a.startsRead then .building { j with waitsForAnswer := false } else .building j
                    | r => r })
          ∧ (f.source = .columns → s.columns.listFits →
              ∃ t, exec .sentInFull s = .next t ∧ t = { s with link := link, columns := t.columns }
                ∧ t.columns.listFits)
          ∧ (∀ p rest, f.source = .columns → s.columns.outgoing = p :: rest →
              ∃ t, exec .sentInFull s = .next t ∧ t = { s with link := link, columns := t.columns }
                ∧ (s.columns.current = none → t.columns = { s.columns with outgoing := rest })
                ∧ ∀ r, s.columns.current = some r →
                  (p.ofCurrent = true → p.last = none → r.phase = .passing →
                      ∃ post, r.composes s s.columns.nextColumn post
                        ∧ t.columns = ⟨some (r.after post), s.columns.nextColumn + post.count, rest ++ [post]⟩)
                    ∧ (p.ofCurrent = true → p.last = none → r.phase ≠ .passing →
                        t.columns = { s.columns with outgoing := rest })
                    ∧ (p.ofCurrent = true → p.last ≠ none →
                        t.columns =
                          { s.columns with
                            outgoing := rest
                            current :=
                              if r.params.repeatCode ≠ 0 ∧ r.snapshot.live = true then
                                some { r with phase := .waiting (s.time.elapsed + r.params.repeatCode * 4000000) }
                              else none })
                    ∧ (p.ofCurrent = false → r.phase = .starting → rest = [] →
                        ∃ (r' : Reduction) (post : ColumnsPost), r'.owner = r.owner ∧ r'.params = r.params ∧ r'.pass = r.pass
                          ∧ r'.snapshot = s.snapshot r.params r.snapshot.window ∧ r'.composes s 0 post
                          ∧ t.columns = ⟨some (r'.after post), post.count, [post]⟩)
                    ∧ (p.ofCurrent = false → (r.phase ≠ .starting ∨ rest ≠ []) →
                        t.columns = { s.columns with outgoing := rest }))
          ∧ (f.source = .stream →
              ∃ t, exec .sentInFull s = .next t
                ∧ t = { s with link := link, streamer := t.streamer, freeDraws := t.freeDraws }
                ∧ ∃ sent : Streamer,
                  sent = { s.streamer with
                      queue := s.streamer.queue.drop s.streamer.inFlight, inFlight := 0, discardMarked := false,
                      ageReached := sent.ageReached }
                    ∧ (sent.ageReached = true ↔ sent.aged s.time.elapsed)
                    ∧ ((s.streamer.lostAt s.time.elapsed).length < 2 → t.streamer = sent ∧ t.freeDraws = s.freeDraws)
                    ∧ (2 ≤ (s.streamer.lostAt s.time.elapsed).length →
                        t.freeDraws = s.freeDraws + 1
                          ∧ ∃ later < (s.streamer.lostAt s.time.elapsed).length,
                            t.streamer = sent.freedBetween s.time.elapsed later))
          ∧ (∀ p, f.source = .records → s.readout = .holding p →
              exec .sentInFull s = .next { s with link := link, readout := .free }))

/-- A mismatch in a data bit of byte 0 withdraws the post, which returns to its source and leaves the collision count; one after
byte 0 abandons it, which raises the count, with the retry wait the first time and LINK_FAULT, a fault record and the FAULT notice
the second, where the count stands at 2 (log 27). At any other time neither event occurs, and nothing changes (logs 2 and 39). A
SIGNAL post's flags rejoin the pending part with the earlier origin tick. -/
def Obligations.WithdrawnAndCollidedPostsReturn : Prop :=
  ∀ (s : State) (f : Flight), s.link.flight = some f →
    let bit := ([64, 32, 16, 8] : List Nat).getD s.link.rate.toNat 0
    let ends := f.started + 9 * f.bytes.length * bit
    (s.time.elapsed < f.started + 1 * bit ∨ f.started + 9 * bit < s.time.elapsed → exec .withdrawn s = .next s)
      ∧ (f.started + 1 * bit ≤ s.time.elapsed → s.time.elapsed ≤ f.started + 9 * bit →
          ∃ t, exec .withdrawn s = .next t ∧ PostBack s f t
            ∧ t.link.collisions = s.link.collisions ∧ t.link.state = s.link.state
            ∧ t.link.retryWait = s.link.retryWait ∧ t.orders.notices = s.noticesBack f
            ∧ t.orders.fault = s.orders.fault)
      ∧ (s.time.elapsed < f.started + 10 * bit ∨ ends < s.time.elapsed → exec .collision s = .next s)
      ∧ (f.started + 10 * bit ≤ s.time.elapsed → s.time.elapsed ≤ ends →
          ∃ t, exec .collision s = .next t ∧ PostBack s f t
            ∧ (s.link.collisions = 0 →
                t.link.collisions = 1 ∧ t.link.retryWait = true ∧ t.link.state = s.link.state
                  ∧ t.orders.fault = s.orders.fault ∧ t.orders.notices = s.noticesBack f)
            ∧ (s.link.collisions ≠ 0 →
                t.link.collisions = s.link.collisions + 1 ∧ t.link.retryWait = s.link.retryWait
                  ∧ t.link.state = .linkFault ∧ t.orders.notices = (s.noticesBack f).setFault
                  ∧ t.orders.notices.fault = true
                  ∧ (s.orders.fault = none ∨ (∃ r, s.orders.fault = some r ∧ r.read = true) →
                      t.orders.fault = some ⟨s.time.tick, f.source.cls, s.capture.state, 0, false⟩)
                  ∧ (∀ r, s.orders.fault = some r → r.read = false →
                      t.orders.fault = some { r with further := min 255 (r.further + 1) })))

/-- The reset pin puts every item at its reset value and holds the node; its release latches the straps, station 15 as 14, sets
the tick counter to 0 and sets PRESENT pending in JOINING. While the pin is held the tick counter keeps its value (log 24). -/
def Obligations.ResetPinAndRelease : Prop :=
  ∀ s : State,
    exec .resetPin s =
        .next { State.reset with
          time := s.time
          pfe := { State.reset.pfe with inputs := s.pfe.inputs }
          link := { State.reset.link with
            strapReading := s.link.strapReading, station := s.link.station, rate := s.link.rate }
          resetHeld := true
          freeDraws := s.freeDraws
          pending := s.pending }
      ∧ ∀ (straps : BitVec 4) (rate : BitVec 2), s.resetHeld = true →
        ∃ t, exec (.resetPinRelease straps rate) s = .next t
          ∧ t = { State.reset with
              time := ⟨0, s.time.elapsed⟩
              pfe := { State.reset.pfe with inputs := s.pfe.inputs }
              link := { State.reset.link with strapReading := straps, station := t.link.station, rate := rate }
              freeDraws := s.freeDraws
              pending := s.pending }
          ∧ t.link.station.val = min straps.toNat 14

/-! ## Rules inside a sample -/

/-- A record is placed in a free slot; in a full store it overwrites the oldest while there is no trigger position, or while the
pre-trigger records exceed min(F, n0); otherwise it is refused. An overwrite closes a building read that has still to copy the
record (no sooner than its answer was sent: log 38), and overtakes a pass in PASSING whose floor it reaches. -/
def Obligations.RecordsArePlacedByTheStoresRule : Prop :=
  ∀ (s : State) (r : Record),
    let oldest := s.store.nextSeq - s.store.records.length
    (s.store.records.length < 65536 →
        s.place r =
          some { s with store := { s.store with records := s.store.records ++ [r], nextSeq := s.store.nextSeq + 1 } })
      ∧ (65536 ≤ s.store.records.length →
          (s.store.trigger = none
            ∨ ∃ p, s.store.trigger = some p ∧ min s.store.floor p.n0 < p.sequence - oldest) →
          ∃ t, s.place r = some t
            ∧ t = { s with store := t.store, readout := t.readout, columns := t.columns }
            ∧ t.store.records = s.store.records.drop 1 ++ [r] ∧ t.store.nextSeq = s.store.nextSeq + 1
            ∧ t.store.trigger = s.store.trigger ∧ t.store.floor = s.store.floor
            ∧ t.store.placement = s.store.placement
            ∧ (∀ j, s.readout = .building j →
                (j.waitsForAnswer = false ∧ j.firstSeq + j.copied.length ≤ oldest ∧ oldest < j.firstSeq + j.want →
                    t.readout = .holding ⟨j.dest, j.firstSeq, j.copied, false, true, false, false⟩
                      ∧ t.store.lastRef =
                          if j.copied = [] then s.store.lastRef
                          else some (if j.downward then j.firstSeq else j.firstSeq + j.copied.length - 1))
                  ∧ (¬(j.waitsForAnswer = false ∧ j.firstSeq + j.copied.length ≤ oldest
                        ∧ oldest < j.firstSeq + j.want) →
                      t.readout = s.readout ∧ t.store.lastRef = s.store.lastRef))
            ∧ ((∀ j, s.readout ≠ .building j) → t.readout = s.readout ∧ t.store.lastRef = s.store.lastRef)
            ∧ (∀ p, s.columns.current = some p → p.phase = .passing →
                p.snapshot.floor.getD (p.snapshot.horizon + 1) ≤ oldest →
                t.columns =
                  { s.columns with
                    current := some { p with phase := .closing }
                    outgoing := s.columns.outgoing
                      ++ [⟨p.owner, true, p.pass, p.snapshot.window, s.columns.nextColumn, 0, [], some .overtaken⟩] })
            ∧ ((∀ p, s.columns.current = some p → p.phase = .passing →
                  oldest < p.snapshot.floor.getD (p.snapshot.horizon + 1)) →
                t.columns = s.columns))
      ∧ (∀ p, 65536 ≤ s.store.records.length → s.store.trigger = some p →
          p.sequence - oldest ≤ min s.store.floor p.n0 → s.place r = none)

/-- A sample extends the open run when value and mask are equal and the length is below 65,535, and otherwise closes it and
opens a run of length 1; the trigger sample always opens a run. -/
def Obligations.RunsFormFromEqualSamples : Prop :=
  ∀ (p : Sampler) (x : Sample) (isTrigger : Bool),
    let fresh : Run := ⟨x.value, x.mask, x.tick, 1, if p.record.mode = .state then some x.tick else none⟩
    (p.openRun = none → p.formRun x isTrigger = (none, fresh))
      ∧ ∀ r, p.openRun = some r →
        (isTrigger = false → r.value = x.value → r.mask = x.mask → r.length < 65535 →
            p.formRun x isTrigger =
              (none, { r with length := r.length + 1, lastTick := r.lastTick.map (fun _ => x.tick) }))
          ∧ (isTrigger = true ∨ r.value ≠ x.value ∨ r.mask ≠ x.mask ∨ 65535 ≤ r.length →
              p.formRun x isTrigger = (some r, fresh))

/-- When both branches of the current stage reach their counts at a sample, PRIMARY is taken; when ALTERNATE alone does, it is
taken. The stage taken is entered with both counts at 0 and the flags placed or raised at the sample heard. With neither reached
the stage stays and both counts go on. A sample is an occurrence where the branch's predicate is true, under EVENTS only when it was
not true at the sample before. The predicates are those of the branches' conditions and combiners, after the flags placed at the
sample were heard and every hold count has moved. -/
def Obligations.PrimaryIsTakenBeforeAlternate : Prop :=
  ∀ (q : Sequencer) (i : SeqInputs) (st : Stage), q.currentStage = some st →
    ∃ (holds : List StageHolds) (yes other : Bool),
      let heard := q.heard ||| i.placed
      let settled : Sequencer := { q with heard := heard, holds := holds }
      let held := holds.getD q.stage.val ⟨⟨0, 0⟩, ⟨0, 0⟩⟩
      let counted (b : Branch) (holdsNow : Bool) (count : Nat) (prev : Option Bool) : Nat :=
        count + (holdsNow && (b.countsSamples || prev != some true)).toNat
      let primary := counted st.primary yes q.primaryCount q.primaryPrev
      let entered (b : Branch) (q' : Sequencer) : Prop :=
        q' = { settled with
          stage := b.nextStage, primaryCount := 0, alternateCount := 0, primaryPrev := none, alternatePrev := none,
          heard := i.placed ||| b.raises }
      holds.length = min q.program.length q.holds.length
        ∧ (∀ (n : Nat) (x : Stage) (h after : StageHolds), q.program[n]? = some x → q.holds[n]? = some h →
            holds[n]? = some after →
            x.primary.heldFor i.sample.value h.primary after.primary
              ∧ ∀ b, x.alternate = some b → b.heldFor i.sample.value h.alternate after.alternate)
        ∧ (yes = true ↔ st.primary.holdsAt i heard held.primary)
        ∧ (∀ b, st.alternate = some b → (other = true ↔ b.holdsAt i heard held.alternate))
        ∧ (st.primary.count ≤ primary →
            ∃ q', q.evaluate i = (q', some ⟨q.stage, .primary, st.primary⟩) ∧ entered st.primary q')
        ∧ (∀ alt, st.alternate = some alt → primary < st.primary.count →
            alt.count ≤ counted alt other q.alternateCount q.alternatePrev →
            ∃ q', q.evaluate i = (q', some ⟨q.stage, .alternate, alt⟩) ∧ entered alt q')
        ∧ (∀ alt, st.alternate = some alt → primary < st.primary.count →
            counted alt other q.alternateCount q.alternatePrev < alt.count →
            q.evaluate i =
              ({ settled with
                  primaryCount := primary
                  primaryPrev := some yes
                  alternateCount := counted alt other q.alternateCount q.alternatePrev
                  alternatePrev := some other }, none))
        ∧ (st.alternate = none → primary < st.primary.count →
            q.evaluate i = ({ settled with primaryCount := primary, primaryPrev := some yes }, none))

/-- At the start bit's sample point a non-idle level confirms the frame, and an idle level is a false start: no record, HUNTING,
idle seen. Samples before that point are not looked at. In HUNTING, a non-idle sample after an idle one is s0 and begins the frame;
while no idle sample was seen nothing begins. After the start bit the frame goes on to its data, parity and stop bits, each read at
its sample point, and completes as DATA with the errors found or as a BREAK. -/
def Obligations.FalseStartCompletesNothing : Prop :=
  (∀ (c : AsyncSettings) (slot : Fin 4) (d : Slot) (x : Sample) (s0 s0Tick : Nat),
    d.phase = .inWord (.async s0 s0Tick 0 []) →
    (x.index ≠ s0 + c.period / 32 → c.step slot d x = (d, none))
      ∧ (x.index = s0 + c.period / 32 → hasChannel x.value c.data = c.idle →
          c.step slot d x = ({ d with phase := .hunting, idleSeen := true }, none))
      ∧ (x.index = s0 + c.period / 32 → hasChannel x.value c.data ≠ c.idle →
          c.step slot d x = ({ d with phase := .inWord (.async s0 s0Tick 1 []) }, none)))
    ∧ ∀ c : AsyncSettings, c.huntsWell ∧ c.framesWell

/-! ## Invariants -/

/-- The bounds that State.bounded names, of lists and counts, the activity set inside the enabled channels, and the return state,
survive every step. -/
def Obligations.BoundedStatesStayBounded : Prop := keptByEveryStep State.bounded

/-- The outgoing list of the Column Engine fits the phase of the current reduction, at most three posts, after every step. -/
def Obligations.OutgoingPostsFitTheirPhase : Prop := keptByEveryStep (fun s => s.columns.listFits)

/-- The node right after reset meets both invariants. -/
def Obligations.ResetMeetsTheInvariants : Prop := State.reset.bounded ∧ State.reset.columns.listFits
end

