-- ==== Sys2Proof/Laws/Members.lean ====
section
/-! SUPPORT. The members of a set of four and of a set of channels: what is read back after each operation on them. -/

namespace Sys2Proof

/-! ## Four like things -/

@[simp] theorem Quad.get_set_self {α : Type} (q : Quad α) (k : Fin 4) (x : α) : (q.set k x).get k = x := by
  fin_cases k <;> rfl

/-- Setting one member leaves the others. -/
theorem Quad.get_set_ne {α : Type} (q : Quad α) {k j : Fin 4} (x : α) (h : j ≠ k) : (q.set k x).get j = q.get j := by
  fin_cases k <;> fin_cases j <;> first | rfl | exact absurd rfl h

@[simp] theorem Quad.get_map {α β : Type} (f : α → β) (q : Quad α) (k : Fin 4) : (q.map f).get k = f (q.get k) := by
  fin_cases k <;> rfl

@[simp] theorem Quad.get_mapIdx {α β : Type} (f : Fin 4 → α → β) (q : Quad α) (k : Fin 4) :
    (q.mapIdx f).get k = f k (q.get k) := by
  fin_cases k <;> rfl

@[simp] theorem Quad.get_fill {α : Type} (x : α) (k : Fin 4) : (Quad.fill x).get k = x := by
  fin_cases k <;> rfl

/-- Every member stands in the list of members. -/
theorem Quad.get_mem {α : Type} (q : Quad α) (k : Fin 4) : q.get k ∈ q.toList := by
  fin_cases k <;> simp [Quad.get, Quad.toList]

namespace Machine

/-! ## Channel sets -/

theorem oneChannel_holds : ∀ a ch : Channel, hasChannel (oneChannel a) ch = decide (a = ch) := by decide

theorem mem_allChannels : ∀ ch : Channel, ch ∈ allChannels := by decide

/-- A set built from a test holds the channels that pass it. -/
@[simp] theorem levelsFrom_holds (f : Channel → Bool) (ch : Channel) : hasChannel (levelsFrom f) ch = f ch := by
  have key : ∀ (l : List Channel) (v : Levels),
      hasChannel (l.foldl (fun v c => if f c then v ||| oneChannel c else v) v) ch
        = (hasChannel v ch || (decide (ch ∈ l) && f ch)) := by
    intro l
    induction l with
    | nil => intro v; simp
    | cons a t ih =>
      intro v
      have h1 : ∀ v : Levels, hasChannel (v ||| oneChannel a) ch = (hasChannel v ch || decide (a = ch)) := by
        intro v
        rw [← oneChannel_holds]
        exact BitVec.getLsbD_or
      rw [List.foldl_cons, ih]
      by_cases e : a = ch
      · subst e
        by_cases g : f a = true
        · simp only [g, if_true, h1]; simp
        · simp only [Bool.not_eq_true] at g; simp [g]
      · by_cases g : f a = true
        · simp only [g, if_true, h1, e]; simp [Ne.symm e]
        · simp only [g, Bool.false_eq_true, if_false]; simp [Ne.symm e]
  unfold levelsFrom
  rw [key]
  simp [mem_allChannels, hasChannel]

/-- The normalised level of one channel (R2). -/
theorem Pfe.level_eq (p : Pfe) (ch : Channel) :
    p.level ch = ((p.detected ch != p.inverted.getLsbD ch.val) && p.enabled.getLsbD ch.val) := by
  have h : p.rawLevels.getLsbD ch.val = p.detected ch := levelsFrom_holds p.detected ch
  unfold Pfe.level Pfe.levels hasChannel
  simp only [BitVec.getLsbD_and, BitVec.getLsbD_xor, h]

/-! ## The copy set -/

theorem setOfFour : ∀ (b0 b1 b2 b3 : Bool) (d : Fin 4),
    (([0, 1, 2, 3] : List (Fin 4)).foldl
      (fun v i => if (Quad.get ⟨b0, b1, b2, b3⟩ i) = true then v ||| (1#4 <<< i.val) else v) (0#4)).getLsbD d.val
      = Quad.get ⟨b0, b1, b2, b3⟩ d := by decide

/-- The copy set holds the slots whose kind is not OFF and whose store copies are on (R144). -/
theorem DecoderBank.noteCopySet_holds (b : DecoderBank) (d : Fin 4) :
    b.noteCopySet.getLsbD d.val = ((b.slots.get d).kind != .off && (b.slots.get d).storeCopies) := by
  let f := fun i : Fin 4 => (b.slots.get i).kind != .off && (b.slots.get i).storeCopies
  have e : ∀ i : Fin 4, Quad.get ⟨f 0, f 1, f 2, f 3⟩ i = f i := by intro i; fin_cases i <;> rfl
  have h := setOfFour (f 0) (f 1) (f 2) (f 3) d
  simp only [e] at h
  show _ = f d
  rw [← h]
  unfold DecoderBank.noteCopySet
  simp [f]

end Machine

end Sys2Proof
end

