-- ==== Sys2Proof/Laws/Counters.lean ====
section
/-! SUPPORT. One counter changed, and what the others see of it. -/

namespace Sys2Proof.Machine

theorem partnerOf_ne : ∀ k : Fin 4, partnerOf k ≠ k := by decide

@[simp] theorem CounterBank.update_self (b : CounterBank) (k : Fin 4) (f : Counter → Counter) :
    (b.update k f).k.get k = f (b.k.get k) := by
  simp [CounterBank.update]

/-- An update of one counter leaves the others. -/
theorem CounterBank.update_ne (b : CounterBank) {k j : Fin 4} (f : Counter → Counter) (h : j ≠ k) :
    (b.update k f).k.get j = b.k.get j := by
  simp [CounterBank.update, Quad.get_set_ne _ _ h]

/-- The gate signal touches the partner alone (R66). -/
@[simp] theorem CounterBank.signalGate_self (b : CounterBank) (k : Fin 4) : (b.signalGate k).k.get k = b.k.get k := by
  unfold CounterBank.signalGate
  split
  · exact b.update_ne _ (partnerOf_ne k).symm
  · rfl

/-- An update that leaves the settings leaves the cascade of every pair (R60). -/
theorem CounterBank.update_cascaded (b : CounterBank) (k j : Fin 4) (f : Counter → Counter)
    (hf : ∀ c, (f c).settings = c.settings) : (b.update k f).cascaded j = b.cascaded j := by
  unfold CounterBank.cascaded
  by_cases h : highOf j = k
  · subst h
    rw [CounterBank.update_self, hf]
    rfl
  · rw [CounterBank.update_ne _ _ h]
    rfl

/-- Outside a cascaded pair a value is set on the counter itself. -/
theorem CounterBank.setValue_self (b : CounterBank) (k : Fin 4) (v : Nat) (h : b.cascaded k = false) :
    (b.setValue k v).k.get k = { b.k.get k with value := v } := by
  simp [CounterBank.setValue, h]

/-- With no gate due nothing acts. -/
theorem CounterBank.actGates_idle (b : CounterBank) (h : ∀ k, (b.k.get k).gateDue = false) : b.actGates = b := by
  simp [CounterBank.actGates, allCounters, CounterBank.actGate, h]

end Sys2Proof.Machine
end

