-- ==== Sys2Proof/Laws/Bank.lean ====
section
/-! SUPPORT. What the Counter Bank does at a sample, at a restart and at a capture end, counter by counter and pair by pair. -/

namespace Sys2Proof.Machine

/-! ## Pairs -/

/-- A pair runs as one counter (R60). -/
theorem CounterBank.cascaded_iff (b : CounterBank) (k : Fin 4) : b.cascaded k = true ↔ b.paired k := by
  fin_cases k <;> simp [CounterBank.cascaded, CounterBank.paired, CounterBank.cascadeOf, highOf]

theorem CounterBank.cascaded_false (b : CounterBank) (k : Fin 4) : b.cascaded k = false ↔ ¬b.paired k := by
  rw [← b.cascaded_iff k, Bool.not_eq_true]

theorem partnerOf_partnerOf : ∀ k : Fin 4, partnerOf (partnerOf k) = k := by decide

/-- Both counters of a pair are paired, or neither (R60). -/
theorem CounterBank.paired_partner (b : CounterBank) (k : Fin 4) : b.paired (partnerOf k) ↔ b.paired k := by
  fin_cases k <;> simp [CounterBank.paired, partnerOf]

/-- The low and the high counter of a pair. -/
def isPairOf (l h : Fin 4) : Prop := (l = 0 ∧ h = 1) ∨ (l = 2 ∧ h = 3)

theorem isPairOf.halves {l h : Fin 4} (p : isPairOf l h) :
    partnerOf l = h ∧ partnerOf h = l ∧ lowOf l = l ∧ highOf l = h ∧ lowOf h = l ∧ highOf h = h ∧ isLow l = true
      ∧ isLow h = false ∧ l ≠ h := by
  rcases p with ⟨rfl, rfl⟩ | ⟨rfl, rfl⟩ <;> decide

/-- Every counter is the low or the high one of a pair. -/
theorem isPairOf_cases (k : Fin 4) : isPairOf k (partnerOf k) ∨ isPairOf (partnerOf k) k := by
  fin_cases k <;> simp [isPairOf, partnerOf]

/-! ## Folds over the four counters -/

/-- What an operation on one counter keeps of a bank: settings and cascades, and the counters of the other pair. -/
structure Local (G : CounterBank → Fin 4 → CounterBank) : Prop where
  others : ∀ b k j, j ≠ k → j ≠ partnerOf k → (G b k).k.get j = b.k.get j
  settings : ∀ b k j, ((G b k).k.get j).settings = (b.k.get j).settings
  cascades : ∀ b k, (G b k).cascade01 = b.cascade01 ∧ (G b k).cascade23 = b.cascade23

/-- A bank with the settings and the cascades of another. -/
def sameSettings (b' b : CounterBank) : Prop :=
  (∀ j, (b'.k.get j).settings = (b.k.get j).settings) ∧ b'.cascade01 = b.cascade01 ∧ b'.cascade23 = b.cascade23

theorem sameSettings.paired {b' b : CounterBank} (h : sameSettings b' b) (k : Fin 4) : b'.paired k ↔ b.paired k := by
  unfold CounterBank.paired
  rw [h.1, h.1, h.2.1, h.2.2]

theorem Local.same {G : CounterBank → Fin 4 → CounterBank} (hG : Local G) (b : CounterBank) (k : Fin 4) :
    sameSettings (G b k) b := ⟨hG.settings b k, hG.cascades b k⟩

theorem sameSettings.trans {a b c : CounterBank} (h : sameSettings a b) (g : sameSettings b c) : sameSettings a c :=
  ⟨fun j => (h.1 j).trans (g.1 j), h.2.1.trans g.2.1, h.2.2.trans g.2.2⟩

/-- A fold keeps settings and cascades. -/
theorem Local.fold_same {G : CounterBank → Fin 4 → CounterBank} (hG : Local G) (b : CounterBank) :
    sameSettings (allCounters.foldl G b) b :=
  ((hG.same _ 3).trans (hG.same _ 2)).trans ((hG.same _ 1).trans (hG.same _ 0))

/-- A fold over the four counters does to a pair what its operations on the low and then the high counter do. -/
theorem Local.fold_pair {G : CounterBank → Fin 4 → CounterBank} (hG : Local G) (b : CounterBank) {l h : Fin 4}
    (p : isPairOf l h) : ∃ b', sameSettings b' b ∧ b'.k.get l = b.k.get l ∧ b'.k.get h = b.k.get h
      ∧ (allCounters.foldl G b).k.get l = (G (G b' l) h).k.get l
      ∧ (allCounters.foldl G b).k.get h = (G (G b' l) h).k.get h := by
  rcases p with ⟨rfl, rfl⟩ | ⟨rfl, rfl⟩
  · refine ⟨b, ⟨fun _ => rfl, rfl, rfl⟩, rfl, rfl, ?_, ?_⟩ <;>
    · show (G (G (G (G b 0) 1) 2) 3).k.get _ = _
      rw [hG.others _ 3 _ (by decide) (by decide), hG.others _ 2 _ (by decide) (by decide)]
  · exact ⟨G (G b 0) 1, (hG.same _ 1).trans (hG.same _ 0),
      by rw [hG.others _ 1 _ (by decide) (by decide), hG.others _ 0 _ (by decide) (by decide)],
      by rw [hG.others _ 1 _ (by decide) (by decide), hG.others _ 0 _ (by decide) (by decide)], rfl, rfl⟩

/-- A fold, seen by a counter that stands alone: `f` is its own operation, `g` what its partner's does to it. -/
theorem Local.fold_alone {G : CounterBank → Fin 4 → CounterBank} (hG : Local G) (f : Counter → Counter)
    (g : Counter → Counter → Counter)
    (own : ∀ b k, ¬b.paired k → (G b k).k.get k = f (b.k.get k))
    (other : ∀ b k, ¬b.paired k → (G b k).k.get (partnerOf k) = g (b.k.get (partnerOf k)) (b.k.get k))
    (swap : ∀ c p, f (g c p) = g (f c) p) (deaf : ∀ c p q, g c (g p q) = g c p) (b : CounterBank) (k : Fin 4)
    (hk : ¬b.paired k) : (allCounters.foldl G b).k.get k = g (f (b.k.get k)) (b.k.get (partnerOf k)) := by
  rcases isPairOf_cases k with p | p
  · obtain ⟨b', hs, el, eh, e, _⟩ := hG.fold_pair b p
    have n1 : ¬b'.paired k := by rwa [hs.paired]
    have n2 : ¬(G b' k).paired (partnerOf k) := by rwa [(hG.same b' k).paired, CounterBank.paired_partner]
    have o1 := other _ _ n2
    rw [partnerOf_partnerOf] at o1
    rw [e, o1, own _ _ n1, other _ _ n1, el, eh, deaf]
  · obtain ⟨b', hs, el, eh, _, e⟩ := hG.fold_pair b p
    have n1 : ¬b'.paired (partnerOf k) := by rwa [hs.paired, CounterBank.paired_partner]
    have n2 : ¬(G b' (partnerOf k)).paired k := by rwa [(hG.same _ _).paired, hs.paired]
    have o1 := other _ _ n1
    rw [partnerOf_partnerOf] at o1
    rw [e, own _ _ n2, o1, eh, el, swap]

/-! ## One occurrence -/

/-- A change of one counter that keeps settings is local. -/
theorem CounterBank.update_settings (b : CounterBank) (k j : Fin 4) (f : Counter → Counter)
    (hf : ∀ c, (f c).settings = c.settings) : ((b.update k f).k.get j).settings = (b.k.get j).settings := by
  by_cases e : j = k
  · subst e; rw [CounterBank.update_self, hf]
  · rw [CounterBank.update_ne _ _ e]

/-- What is true of an operation that keeps settings, cascades, and every counter but `k` and its partner. -/
structure LocalAt (k : Fin 4) (b' b : CounterBank) : Prop where
  others : ∀ j, j ≠ k → j ≠ partnerOf k → b'.k.get j = b.k.get j
  same : sameSettings b' b

theorem LocalAt.rfl' (k : Fin 4) (b : CounterBank) : LocalAt k b b := ⟨fun _ _ _ => rfl, fun _ => rfl, rfl, rfl⟩

theorem LocalAt.trans {k : Fin 4} {a b c : CounterBank} (h : LocalAt k a b) (g : LocalAt k b c) : LocalAt k a c :=
  ⟨fun j x y => (h.others j x y).trans (g.others j x y), h.same.trans g.same⟩

theorem LocalAt.update {k i : Fin 4} (b : CounterBank) (f : Counter → Counter) (hi : i = k ∨ i = partnerOf k)
    (hf : ∀ c, (f c).settings = c.settings := by intro _; rfl) : LocalAt k (b.update i f) b := by
  refine ⟨fun j h1 h2 => b.update_ne f ?_, fun j => b.update_settings i j f hf, rfl, rfl⟩
  rcases hi with rfl | rfl <;> assumption

theorem lowOf_mem (k : Fin 4) : lowOf k = k ∨ lowOf k = partnerOf k := by fin_cases k <;> decide

theorem highOf_mem (k : Fin 4) : highOf k = k ∨ highOf k = partnerOf k := by fin_cases k <;> decide

theorem LocalAt.setValue (b : CounterBank) (k : Fin 4) (v : Nat) : LocalAt k (b.setValue k v) b := by
  unfold CounterBank.setValue
  split
  · exact (LocalAt.update _ _ (lowOf_mem k)).trans (LocalAt.update _ _ (highOf_mem k))
  · exact LocalAt.update _ _ (Or.inl rfl)

theorem LocalAt.signalGate (b : CounterBank) (k : Fin 4) : LocalAt k (b.signalGate k) b := by
  unfold CounterBank.signalGate
  split
  · exact LocalAt.update _ _ (Or.inr rfl)
  · exact LocalAt.rfl' k b

theorem LocalAt.occurrence (b : CounterBank) (k : Fin 4) : LocalAt k (b.occurrence k) b := by
  have hc : LocalAt k (b.countOccurrence k) b := by
    unfold CounterBank.countOccurrence
    dsimp only
    split
    · exact LocalAt.rfl' k b
    split
    · exact LocalAt.setValue b k _
    · refine (LocalAt.signalGate _ k).trans ((LocalAt.update _ _ (Or.inl rfl)).trans ?_)
      split
      · exact LocalAt.rfl' k b
      · exact LocalAt.setValue b k _
  have hs : LocalAt k (b.saturatingOccurrence k) b := by
    unfold CounterBank.saturatingOccurrence
    dsimp only
    split
    · exact LocalAt.setValue b k _
    split
    · exact (LocalAt.update _ _ (Or.inl rfl)).trans (LocalAt.setValue b k _)
    · exact LocalAt.rfl' k b
  unfold CounterBank.occurrence
  repeat' split
  all_goals first | exact hc | exact hs | exact LocalAt.rfl' k b

theorem LocalAt.capture (b : CounterBank) (k : Fin 4) : LocalAt k (b.capture k) b := by
  unfold CounterBank.capture
  dsimp only
  split
  · exact (LocalAt.update _ _ (Or.inl rfl)).trans (LocalAt.update _ _ (highOf_mem k))
  · exact LocalAt.update _ _ (Or.inl rfl)

/-- An operation that is local at every counter. -/
theorem Local.of {G : CounterBank → Fin 4 → CounterBank} (h : ∀ b k, LocalAt k (G b k) b) : Local G :=
  ⟨fun b k => (h b k).others, fun b k => (h b k).same.1, fun b k => (h b k).same.2⟩

theorem LocalAt.countTick (b : CounterBank) (tick : Nat) (k : Fin 4) : LocalAt k (b.countTick tick k) b := by
  unfold CounterBank.countTick
  split
  · exact (LocalAt.occurrence _ k).trans (LocalAt.update _ _ (Or.inl rfl))
  · exact LocalAt.rfl' k b

theorem Local.countSample (x : Sample) : Local (CounterBank.countSample x) := by
  apply Local.of
  intro b k
  unfold CounterBank.countSample
  dsimp only
  split
  · exact (LocalAt.occurrence _ k).trans (LocalAt.countTick b x.tick k)
  · exact LocalAt.countTick b x.tick k

theorem Local.actGate : Local CounterBank.actGate := by
  apply Local.of
  intro b k
  unfold CounterBank.actGate
  dsimp only
  repeat' split
  · exact (LocalAt.capture _ k).trans (LocalAt.update _ _ (Or.inl rfl))
  · exact LocalAt.update _ _ (Or.inl rfl)
  · exact LocalAt.rfl' k b

theorem Local.capturePeriod (x : Sample) : Local (CounterBank.capturePeriod x) := by
  apply Local.of
  intro b k
  unfold CounterBank.capturePeriod
  dsimp only
  split
  · exact LocalAt.capture b k
  · exact LocalAt.rfl' k b

/-! ## A counter that stands alone -/

theorem CounterBank.alone_values (b : CounterBank) (k : Fin 4) (h : ¬b.paired k) :
    b.countValue k = (b.k.get k).value ∧ b.countReload k = (b.k.get k).settings.reload ∧ b.saturation k = 65535 := by
  have e := (b.cascaded_false k).2 h
  simp [CounterBank.countValue, CounterBank.countReload, CounterBank.saturation, e]

/-- A partner expiry marks a GATED counter (R63, R66). -/
theorem CounterBank.signalGate_partner (b : CounterBank) (k : Fin 4) :
    (b.signalGate k).k.get (partnerOf k) =
      { b.k.get (partnerOf k) with
        gateDue := (b.k.get (partnerOf k)).gateDue || (b.k.get (partnerOf k)).settings.mode == .gated } := by
  unfold CounterBank.signalGate
  split
  · rename_i h
    rw [CounterBank.update_self]
    simp [h]
  · rename_i h
    have h' : ((b.k.get (partnerOf k)).settings.mode == CounterMode.gated) = false := beq_false_of_ne h
    rw [h', Bool.or_false]

/-- One occurrence in a PERIOD counter, or in a GATED one whose gate is open (R65). -/
theorem Counter.counts_saturating (c : Counter) (hm : c.settings.mode = .period ∨ c.settings.mode = .gated)
    (hg : ¬(c.settings.mode = .gated ∧ c.gateOpen = false)) : c.counts =
      if c.value + 1 < 65535 then { c with value := c.value + 1 }
      else if c.value + 1 = 65535 then
        { c with value := 65535, overflow := true, raised := c.raised || c.settings.select == .overflow }
      else c := by
  unfold Counter.counts
  rcases hm with e | e
  · rw [e]
    dsimp only
    rw [if_neg (by simp)]
  · rw [e] at hg ⊢
    dsimp only
    rw [if_neg hg]

/-- One occurrence in a counter that stands alone, and what its partner sees (R63, R65, R66). -/
theorem CounterBank.occurrence_alone (b : CounterBank) (k : Fin 4) (h : ¬b.paired k) :
    (b.occurrence k).k.get k = (b.k.get k).counts
      ∧ (b.occurrence k).k.get (partnerOf k) =
        { b.k.get (partnerOf k) with
          gateDue := (b.k.get (partnerOf k)).gateDue
            || ((b.k.get (partnerOf k)).settings.mode == .gated && (b.k.get k).expiresNext) } := by
  obtain ⟨hv, hr, hs⟩ := b.alone_values k h
  have hc := (b.cascaded_false k).2 h
  have hp := partnerOf_ne k
  have quiet : ∀ e : Bool, e = false → b.k.get (partnerOf k) =
      { b.k.get (partnerOf k) with
        gateDue := (b.k.get (partnerOf k)).gateDue || ((b.k.get (partnerOf k)).settings.mode == .gated && e) } := by
    rintro _ rfl
    simp
  have set1 : ∀ v, (b.setValue k v).k.get (partnerOf k) = b.k.get (partnerOf k) := by
    intro v
    simp only [CounterBank.setValue, hc, Bool.false_eq_true, if_false]
    exact b.update_ne _ hp
  have key : ∀ m, (b.k.get k).settings.mode = m → (m = .period ∨ m = .gated ∧ (b.k.get k).gateOpen = true) →
      (b.saturatingOccurrence k).k.get k = (b.k.get k).counts
        ∧ (b.saturatingOccurrence k).k.get (partnerOf k) = b.k.get (partnerOf k) := by
    intro m hm hg
    have h1 : ¬((b.k.get k).settings.mode = .gated ∧ (b.k.get k).gateOpen = false) := by
      rw [hm]
      rcases hg with rfl | ⟨rfl, g⟩
      · simp
      · simp [g]
    rw [Counter.counts_saturating _ (by rw [hm]; rcases hg with g | g; exacts [Or.inl g, Or.inr g.1]) h1]
    unfold CounterBank.saturatingOccurrence
    dsimp only
    rw [hv, hs]
    by_cases c1 : (b.k.get k).value + 1 < 65535
    · rw [if_pos c1, if_pos c1]
      exact ⟨b.setValue_self k _ hc, set1 _⟩
    · rw [if_neg c1, if_neg c1]
      by_cases c2 : (b.k.get k).value + 1 = 65535
      · rw [if_pos c2, if_pos c2]
        refine ⟨?_, ?_⟩
        · rw [CounterBank.update_self, b.setValue_self k _ hc, c2]; rfl
        · rw [CounterBank.update_ne _ _ hp, set1]
      · rw [if_neg c2, if_neg c2]
        exact ⟨rfl, rfl⟩
  unfold CounterBank.occurrence
  cases hm : (b.k.get k).settings.mode with
  | off =>
    exact ⟨by simp [Counter.counts, hm], quiet _ (by simp [Counter.expiresNext, hm])⟩
  | cascade => exact ⟨by simp [Counter.counts, hm], quiet _ (by simp [Counter.expiresNext, hm])⟩
  | period =>
    obtain ⟨k1, k2⟩ := key _ hm (Or.inl rfl)
    exact ⟨k1, k2.trans (quiet _ (by simp [Counter.expiresNext, hm]))⟩
  | gated =>
    dsimp only
    split
    · rename_i g
      obtain ⟨k1, k2⟩ := key _ hm (Or.inr ⟨rfl, g⟩)
      exact ⟨k1, k2.trans (quiet _ (by simp [Counter.expiresNext, hm]))⟩
    · rename_i g
      exact ⟨by simp [Counter.counts, hm, g], quiet _ (by simp [Counter.expiresNext, hm])⟩
  | count =>
    simp only [CounterBank.countOccurrence]
    rw [hv, hr]
    by_cases g : (b.k.get k).settings.oneshot = true ∧ (b.k.get k).expired = true
    · have g' : ((b.k.get k).settings.oneshot && (b.k.get k).expired) = true := by simp [g]
      rw [if_pos g']
      exact ⟨by simp [Counter.counts, hm, g], quiet _ (by simp [Counter.expiresNext, g])⟩
    · have g' : ¬((b.k.get k).settings.oneshot && (b.k.get k).expired) = true := by simpa using g
      rw [if_neg g']
      by_cases c1 : (b.k.get k).value + 1 < (b.k.get k).settings.reload
      · rw [if_pos c1]
        refine ⟨?_, (set1 _).trans (quiet _ (by simp [Counter.expiresNext, c1]))⟩
        rw [b.setValue_self k _ hc]
        simp only [Counter.counts, hm, g, c1, if_true, if_false]
      · rw [if_neg c1]
        have hexp : (b.k.get k).expiresNext = true := by
          simp only [Bool.not_eq_true] at g'
          simp [Counter.expiresNext, hm, g', Nat.le_of_not_lt c1]
        refine ⟨?_, ?_⟩
        · rw [CounterBank.signalGate_self, CounterBank.update_self]
          simp only [Counter.counts, hm, g, c1, if_false]
          split
          · simp [Counter.event]
          · rw [b.setValue_self k _ hc]; simp [Counter.event]
        · rw [CounterBank.signalGate_partner, CounterBank.update_ne _ _ hp, hexp, Bool.and_true]
          split
          · rfl
          · rw [set1]

theorem Counter.tickDue_eq (c : Counter) (tick : Nat) : c.tickDue tick = c.ticksAt tick := by
  unfold Counter.tickDue Counter.ticksAt CounterSource.divider
  cases c.settings.source <;> simp [Nat.mod_one]

/-- What a partner's occurrence does to a counter: a GATED one is marked when it is the expiry (R66). -/
def Counter.marked (c : Counter) (expires : Bool) : Counter :=
  { c with gateDue := c.gateDue || (c.settings.mode == .gated && expires) }

@[simp] theorem Counter.marked_false (c : Counter) : c.marked false = c := by simp [Counter.marked]

/-- The TICK occurrence of a tick in a counter that stands alone (R61). -/
theorem CounterBank.countTick_alone (b : CounterBank) (tick : Nat) (k : Fin 4) (h : ¬b.paired k) :
    (b.countTick tick k).k.get k =
        (if (b.k.get k).ticksAt tick = true then { (b.k.get k).counts with countedTo := tick } else b.k.get k)
      ∧ (b.countTick tick k).k.get (partnerOf k) =
        (b.k.get (partnerOf k)).marked ((b.k.get k).ticksAt tick && (b.k.get k).expiresNext) := by
  unfold CounterBank.countTick
  rw [Counter.tickDue_eq]
  split
  · rename_i g
    have hs : sameSettings (b.update k (fun c => { c with countedTo := tick })) b :=
      (LocalAt.update (k := k) b _ (Or.inl rfl)).same
    obtain ⟨h1, h2⟩ := CounterBank.occurrence_alone (b.update k (fun c => { c with countedTo := tick })) k (by rwa [hs.paired])
    rw [CounterBank.update_self] at h1 h2
    rw [CounterBank.update_ne _ _ (partnerOf_ne k)] at h2
    refine ⟨h1.trans ?_, h2.trans ?_⟩
    · unfold Counter.counts
      dsimp only
      repeat' split
      all_goals rfl
    · rw [g, Bool.true_and]
      rfl
  · rename_i g
    simp only [Bool.not_eq_true] at g
    rw [g]
    exact ⟨rfl, by rw [Bool.false_and, Counter.marked_false]⟩

theorem Counter.sampleOccurs_shows (x : Sample) (ch : Channel) (e : Edge) : x.shows ch e = x.showsEdge ch e := by
  cases e <;> rfl

/-- The counting of a sample: its TICK occurrence, or the sample's own (R61). -/
theorem CounterBank.countSample_eq (x : Sample) (b : CounterBank) (k : Fin 4) :
    CounterBank.countSample x b k =
      if (b.k.get k).ticksAt x.tick = true then b.countTick x.tick k
      else if (b.k.get k).occursAt x = true then b.occurrence k else b := by
  have own : ∀ c : Counter, c.sampleOccurs x = (c.occursAt x && !c.settings.source.divider.isSome) := by
    intro c
    unfold Counter.sampleOccurs Counter.occursAt CounterSource.divider
    cases c.settings.source <;> simp [Counter.sampleOccurs_shows]
  have tick : ∀ c : Counter, c.settings.source.divider.isSome = true → c.occursAt x = c.ticksAt x.tick := by
    intro c
    unfold Counter.occursAt CounterSource.divider
    cases c.settings.source <;> simp
  have none : ∀ c : Counter, c.ticksAt x.tick = true → c.settings.source.divider.isSome = true := by
    intro c
    unfold Counter.ticksAt CounterSource.divider
    cases c.settings.source <;> simp
  have hs := (LocalAt.countTick b x.tick k).same.1 k
  unfold CounterBank.countSample
  dsimp only
  by_cases g : (b.k.get k).ticksAt x.tick = true
  · rw [if_pos g, own, hs, none _ g]
    simp
  · rw [if_neg g]
    have e : b.countTick x.tick k = b := by
      unfold CounterBank.countTick
      rw [Counter.tickDue_eq, if_neg g]
    rw [e, own]
    cases d : (b.k.get k).settings.source.divider.isSome with
    | false => simp
    | true => rw [tick _ d]; simp [g]

/-- The occurrence of a sample in a counter that stands alone (R61). -/
theorem CounterBank.countSample_alone (x : Sample) (b : CounterBank) (k : Fin 4) (h : ¬b.paired k) :
    (CounterBank.countSample x b k).k.get k =
        { (if (b.k.get k).occursAt x = true then (b.k.get k).counts else b.k.get k) with
          countedTo := if (b.k.get k).ticksAt x.tick = true then x.tick else (b.k.get k).countedTo }
      ∧ (CounterBank.countSample x b k).k.get (partnerOf k) =
        (b.k.get (partnerOf k)).marked ((b.k.get k).occursAt x && (b.k.get k).expiresNext) := by
  have hcount : ∀ c : Counter, c.counts = { c.counts with countedTo := c.countedTo } := by
    intro c
    unfold Counter.counts
    repeat' split
    all_goals rfl
  have tick : ∀ c : Counter, c.ticksAt x.tick = true → c.occursAt x = true := by
    intro c
    unfold Counter.occursAt Counter.ticksAt
    cases c.settings.source <;> simp
  rw [CounterBank.countSample_eq]
  by_cases g : (b.k.get k).ticksAt x.tick = true
  · obtain ⟨h1, h2⟩ := b.countTick_alone x.tick k h
    rw [if_pos g, h1, h2, if_pos g, if_pos (tick _ g), if_pos g, g, tick _ g]
    exact ⟨rfl, rfl⟩
  · rw [if_neg g, if_neg g]
    by_cases o : (b.k.get k).occursAt x = true
    · obtain ⟨h1, h2⟩ := CounterBank.occurrence_alone b k h
      rw [if_pos o, if_pos o, h1, h2, o, Bool.true_and]
      exact ⟨hcount _, rfl⟩
    · rw [if_neg o, if_neg o]
      simp only [Bool.not_eq_true] at o
      rw [o, Bool.false_and, Counter.marked_false]
      exact ⟨rfl, rfl⟩

/-- A capture in a counter that stands alone (R64, R66). -/
theorem CounterBank.capture_alone (b : CounterBank) (k : Fin 4) (h : ¬b.paired k) :
    (b.capture k).k.get k = (b.k.get k).captured ∧ (b.capture k).k.get (partnerOf k) = b.k.get (partnerOf k) := by
  have e := (b.cascaded_false k).2 h
  unfold CounterBank.capture
  simp only [e, Bool.false_eq_true, if_false]
  exact ⟨CounterBank.update_self _ _ _, CounterBank.update_ne _ _ (partnerOf_ne k)⟩

/-- A due partner expiry at the gate of a counter that stands alone (R66). -/
theorem CounterBank.actGate_alone (b : CounterBank) (k : Fin 4) (h : ¬b.paired k) :
    (b.actGate k).k.get k = (b.k.get k).gateActs ∧ (b.actGate k).k.get (partnerOf k) = b.k.get (partnerOf k) := by
  unfold CounterBank.actGate Counter.gateActs
  dsimp only
  by_cases g : (b.k.get k).gateDue = true
  · have hs := (LocalAt.update (k := k) b (fun c => { c with gateDue := false, gateOpen := true }) (Or.inl rfl)).same
    obtain ⟨h1, h2⟩ := CounterBank.capture_alone (b.update k (fun c => { c with gateDue := false, gateOpen := true })) k
      (by rwa [hs.paired])
    rw [if_pos g, if_neg (show ¬(b.k.get k).gateDue = false by simp [g])]
    by_cases o : (b.k.get k).gateOpen = true
    · rw [if_pos o, if_pos o, h1, h2, CounterBank.update_self, CounterBank.update_ne _ _ (partnerOf_ne k)]
      exact ⟨by simp [Counter.captured, o], rfl⟩
    · rw [if_neg o, if_neg o, CounterBank.update_self, CounterBank.update_ne _ _ (partnerOf_ne k)]
      exact ⟨rfl, rfl⟩
  · rw [if_neg g, if_pos (by simpa using g)]
    exact ⟨rfl, rfl⟩

/-- A period edge at a counter that stands alone (R64). -/
theorem CounterBank.capturePeriod_alone (x : Sample) (b : CounterBank) (k : Fin 4) (h : ¬b.paired k) :
    (CounterBank.capturePeriod x b k).k.get k =
        (if (b.k.get k).periodEdgeAt x = true then (b.k.get k).captured else b.k.get k)
      ∧ (CounterBank.capturePeriod x b k).k.get (partnerOf k) = b.k.get (partnerOf k) := by
  unfold CounterBank.capturePeriod Counter.periodEdgeAt
  dsimp only
  rw [Counter.sampleOccurs_shows]
  by_cases g : (b.k.get k).settings.mode = .period ∧ x.showsEdge (b.k.get k).settings.periodChannel (b.k.get k).settings.periodEdge = true
  · rw [if_pos g, if_pos (by simp [g])]
    exact b.capture_alone k h
  · rw [if_neg g, if_neg (by simpa using g)]
    exact ⟨rfl, rfl⟩

theorem Counter.counts_settings (c : Counter) : c.counts.settings = c.settings ∧ c.counts.gateDue = c.gateDue := by
  unfold Counter.counts
  repeat' split
  all_goals exact ⟨rfl, rfl⟩

theorem Counter.gateActs_settings (c : Counter) : c.gateActs.settings = c.settings := by
  unfold Counter.gateActs
  repeat' split
  all_goals rfl

/-- Gates act on a counter that stands alone as they do on it by itself (R66). -/
theorem CounterBank.actGates_alone (b : CounterBank) (k : Fin 4) (h : ¬b.paired k) :
    b.actGates.k.get k = (b.k.get k).gateActs :=
  Local.actGate.fold_alone Counter.gateActs (fun c _ => c) (fun b k h => (b.actGate_alone k h).1)
    (fun b k h => (b.actGate_alone k h).2) (fun _ _ => rfl) (fun _ _ _ => rfl) b k h

/-- What a sample does to a counter that stands alone (R61, R63 to R66). -/
theorem CounterBank.handleSample_alone (b : CounterBank) (x : Sample) (k : Fin 4) (h : ¬b.paired k) :
    let c := b.k.get k
    let p := b.k.get (partnerOf k)
    let counted := if c.occursAt x then c.counts else c
    let gated :=
      ({ counted with
          countedTo := if c.ticksAt x.tick then x.tick else c.countedTo
          gateDue := c.gateDue || (c.settings.mode == .gated && p.occursAt x && p.expiresNext) } : Counter).gateActs
    (b.handleSample x).k.get k = if c.periodEdgeAt x then gated.captured else gated := by
  have s1 := (Local.countSample x).fold_same b
  have s2 := Local.actGate.fold_same (allCounters.foldl (CounterBank.countSample x) b)
  have e1 := (Local.countSample x).fold_alone
    (fun c => { (if c.occursAt x = true then c.counts else c) with
      countedTo := if c.ticksAt x.tick = true then x.tick else c.countedTo })
    (fun c p => c.marked (p.occursAt x && p.expiresNext)) (fun b k h => (b.countSample_alone x k h).1)
    (fun b k h => (b.countSample_alone x k h).2) ?_ ?_ b k h
  · have e2 := (allCounters.foldl (CounterBank.countSample x) b).actGates_alone k (by rwa [s1.paired])
    have e3 := (Local.capturePeriod x).fold_alone (fun c => if c.periodEdgeAt x = true then c.captured else c) (fun c _ => c)
      (fun b k h => (b.capturePeriod_alone x k h).1) (fun b k h => (b.capturePeriod_alone x k h).2) (fun _ _ => rfl)
      (fun _ _ _ => rfl) (allCounters.foldl (CounterBank.countSample x) b).actGates k
      (by rw [show ((allCounters.foldl (CounterBank.countSample x) b).actGates.paired k ↔ _) from s2.paired k, s1.paired]; exact h)
    have e4 : (b.handleSample x).k.get k = _ := e3
    have edge : ∀ z : Counter, z.settings = (b.k.get k).settings → z.gateActs.periodEdgeAt x = (b.k.get k).periodEdgeAt x := by
      intro z e
      unfold Counter.periodEdgeAt
      rw [Counter.gateActs_settings, e]
    dsimp only
    rw [e4, e2, e1]
    have hset : ((if (b.k.get k).occursAt x = true then (b.k.get k).counts else b.k.get k)).settings
          = (b.k.get k).settings
        ∧ ((if (b.k.get k).occursAt x = true then (b.k.get k).counts else b.k.get k)).gateDue = (b.k.get k).gateDue := by
      split
      · exact Counter.counts_settings _
      · exact ⟨rfl, rfl⟩
    unfold Counter.marked
    dsimp only
    rw [hset.1, hset.2, Bool.and_assoc]
    rw [edge]
    rfl
  · intro c p
    have ho : ∀ d : Bool, ({ c with gateDue := d } : Counter).occursAt x = c.occursAt x := fun _ => rfl
    have ht : ∀ d : Bool, ({ c with gateDue := d } : Counter).ticksAt x.tick = c.ticksAt x.tick := fun _ => rfl
    have hc : ∀ d : Bool, ({ c with gateDue := d } : Counter).counts = { c.counts with gateDue := d } := by
      intro d
      unfold Counter.counts
      dsimp only
      repeat' split
      all_goals rfl
    unfold Counter.marked
    dsimp only
    rw [ho, ht, hc]
    split
    · rw [(Counter.counts_settings c).1, (Counter.counts_settings c).2]
    · rfl
  · intro c p q
    rfl

/-! ## A pair that runs as one counter -/

/-- The high counter of a pair is in CASCADE (R60). -/
theorem CounterBank.paired_high (b : CounterBank) {l h : Fin 4} (p : isPairOf l h) (hb : b.paired l) :
    (b.k.get h).settings.mode = .cascade := by
  rcases p with ⟨rfl, rfl⟩ | ⟨rfl, rfl⟩
  · exact (by simpa [CounterBank.paired] using hb : _ ∧ _).2
  · exact (by simpa [CounterBank.paired] using hb : _ ∧ _).2

/-- A value set on a pair (R68). -/
theorem CounterBank.setValue_pair (b : CounterBank) {l h : Fin 4} (p : isPairOf l h) (hb : b.paired l) (v : Nat) :
    (b.setValue l v).k.get l = { b.k.get l with value := v % 65536 }
      ∧ (b.setValue l v).k.get h = { b.k.get h with value := v / 65536 } := by
  obtain ⟨_, _, h3, h4, _, _, _, _, hn⟩ := isPairOf.halves p
  have e := (b.cascaded_iff l).2 hb
  unfold CounterBank.setValue
  rw [if_pos e, h3, h4]
  refine ⟨?_, ?_⟩
  · rw [CounterBank.update_self, CounterBank.update_ne _ _ hn]
  · rw [CounterBank.update_ne _ _ hn.symm, CounterBank.update_self]

/-- The high counter of a pair counts nothing itself (R60). -/
theorem CounterBank.occurrence_high (b : CounterBank) (k : Fin 4) (h : (b.k.get k).settings.mode = .cascade) :
    b.occurrence k = b := by
  unfold CounterBank.occurrence
  rw [h]

/-- No occurrence leaves a pair as it is. -/
theorem PairHandled.idle (l h : Counter) : PairHandled l h l h false false := by
  refine ⟨rfl, rfl, id, fun _ => ?_, fun _ => ?_⟩ <;> simp

/-- An occurrence of a pair's source (R68, R69). -/
theorem CounterBank.occurrence_pair (b : CounterBank) {l h : Fin 4} (p : isPairOf l h) (hb : b.paired l)
    (hm : (b.k.get l).settings.mode = .count ∨ (b.k.get l).settings.mode = .period) :
    PairHandled (b.k.get l) (b.k.get h) ((b.occurrence l).k.get l) ((b.occurrence l).k.get h) true false := by
  obtain ⟨h1, _, h3, h4, _, _, _, _, hn⟩ := isPairOf.halves p
  have e := (b.cascaded_iff l).2 hb
  have hv : b.countValue l = (b.k.get h).value * 65536 + (b.k.get l).value := by
    unfold CounterBank.countValue; rw [if_pos e, h3, h4]
  have hr : b.countReload l = ((b.k.get h).settings.reload - 1) * 65536 + (b.k.get l).settings.reload := by
    unfold CounterBank.countReload pairReload; rw [if_pos e, h3, h4]
  have hs : b.saturation l = b.countReload l - 1 := by
    unfold CounterBank.saturation; rw [if_pos e]
  have hset := fun v => b.setValue_pair p hb v
  have hhigh := b.paired_high p hb
  unfold CounterBank.occurrence
  rcases hm with hm | hm <;> rw [hm]
  · dsimp only
    unfold CounterBank.countOccurrence
    dsimp only
    rw [hv, hr]
    by_cases g : ((b.k.get l).settings.oneshot && (b.k.get l).expired) = true
    · rw [if_pos g]
      exact ⟨rfl, rfl, id, fun _ => by simp [g], fun q => by rw [hm] at q; cases q⟩
    rw [if_neg g]
    simp only [Bool.not_eq_true] at g
    by_cases c : (b.k.get h).value * 65536 + (b.k.get l).value + 1 <
        ((b.k.get h).settings.reload - 1) * 65536 + (b.k.get l).settings.reload
    · rw [if_pos c, (hset _).1, (hset _).2]
      refine ⟨rfl, rfl, fun _ => Nat.mod_lt _ (by decide), fun _ => ?_, fun q => by rw [hm] at q; cases q⟩
      dsimp only
      rw [g]
      simp only [Bool.not_false, Bool.true_and, Bool.true_eq_false, if_false, c, if_true, Nat.not_le_of_lt c, decide_false,
        Bool.or_false, Bool.false_and, and_self, and_true]
      omega
    · rw [if_neg c]
      have hsig : ∀ b' : CounterBank, (b'.k.get h).settings.mode = .cascade → b'.signalGate l = b' := by
        intro b' e'
        unfold CounterBank.signalGate
        rw [h1, e']
        rfl
      have hq : (if (b.k.get l).settings.oneshot = true then b else b.setValue l 0).k.get h =
          { b.k.get h with value := if (b.k.get l).settings.oneshot = true then (b.k.get h).value else 0 } := by
        split
        · rfl
        · rw [(hset 0).2]
      have hl : (if (b.k.get l).settings.oneshot = true then b else b.setValue l 0).k.get l =
          { b.k.get l with value := if (b.k.get l).settings.oneshot = true then (b.k.get l).value else 0 } := by
        split
        · rfl
        · rw [(hset 0).1]
      rw [hsig _ (by rw [CounterBank.update_ne _ _ hn.symm, hq]; exact hhigh), CounterBank.update_self,
        CounterBank.update_ne _ _ hn.symm, hl, hq]
      refine ⟨rfl, rfl, ?_, fun _ => ?_, fun q => by rw [hm] at q; cases q⟩
      · intro q
        simp only [Counter.event]
        split <;> omega
      · dsimp only [Counter.event]
        rw [g]
        simp only [Bool.not_false, Bool.true_and, Bool.true_eq_false, if_false, c, Nat.le_of_not_lt c, decide_true,
          Bool.or_true, and_self, and_true]
        split <;> simp
  · dsimp only
    unfold CounterBank.saturatingOccurrence
    dsimp only
    rw [hv, hs, hr]
    by_cases c : (b.k.get h).value * 65536 + (b.k.get l).value + 1 <
        ((b.k.get h).settings.reload - 1) * 65536 + (b.k.get l).settings.reload - 1
    · rw [if_pos c, (hset _).1, (hset _).2]
      refine ⟨rfl, rfl, fun _ => Nat.mod_lt _ (by decide), (fun q => by rw [hm] at q; cases q), fun _ => ?_⟩
      dsimp only
      refine ⟨rfl, fun _ => ?_, fun q => by cases q⟩
      rw [if_pos ⟨rfl, Nat.le_of_lt c⟩]
      simp only [Nat.ne_of_lt c, decide_false, Bool.and_false, Bool.or_false, Bool.false_and, and_self, and_true]
      omega
    · rw [if_neg c]
      by_cases c2 : (b.k.get h).value * 65536 + (b.k.get l).value + 1 =
          ((b.k.get h).settings.reload - 1) * 65536 + (b.k.get l).settings.reload - 1
      · rw [if_pos c2, CounterBank.update_self, CounterBank.update_ne _ _ hn.symm, (hset _).1, (hset _).2]
        refine ⟨rfl, rfl, fun _ => Nat.mod_lt _ (by decide), (fun q => by rw [hm] at q; cases q), fun _ => ?_⟩
        dsimp only [Counter.event]
        refine ⟨rfl, fun _ => ?_, fun q => by cases q⟩
        rw [if_pos ⟨rfl, Nat.le_of_eq c2⟩]
        refine ⟨Nat.div_add_mod' _ _, ?_, ?_, rfl, rfl, rfl⟩
        · rw [decide_eq_true c2]; simp
        · rw [decide_eq_true c2]; rfl
      · rw [if_neg c2]
        refine ⟨rfl, rfl, id, (fun q => by rw [hm] at q; cases q), fun _ => ?_⟩
        dsimp only
        refine ⟨rfl, fun _ => ?_, fun q => by cases q⟩
        rw [if_neg (by omega)]
        simp [c2]

/-- The tick up to which a half's TICK occurrences are counted does not matter to a pair. -/
theorem PairHandled.counted {l h l' h' : Counter} {occurs edge : Bool} (tick tick' : Nat)
    (g : PairHandled { l with countedTo := tick } h l' h' occurs edge) :
    PairHandled l h l' { h' with countedTo := tick' } occurs edge :=
  ⟨g.low, by rw [g.high], g.halves, g.count, g.period⟩

/-- The low counter of a pair counts a sample's occurrence for both (R61, R68, R69). -/
theorem CounterBank.countSample_low (x : Sample) (b : CounterBank) {l h : Fin 4} (p : isPairOf l h) (hb : b.paired l)
    (hm : (b.k.get l).settings.mode = .count ∨ (b.k.get l).settings.mode = .period) :
    PairHandled (b.k.get l) (b.k.get h) ((CounterBank.countSample x b l).k.get l) ((CounterBank.countSample x b l).k.get h)
      ((b.k.get l).occursAt x) false := by
  have hn := p.halves.2.2.2.2.2.2.2.2
  rw [CounterBank.countSample_eq]
  by_cases g : (b.k.get l).ticksAt x.tick = true
  · have o : (b.k.get l).occursAt x = true := by
      revert g
      unfold Counter.occursAt Counter.ticksAt
      cases (b.k.get l).settings.source <;> simp
    have hs : sameSettings (b.update l (fun c => { c with countedTo := x.tick })) b :=
      (LocalAt.update (k := l) b _ (Or.inl rfl)).same
    have key := CounterBank.occurrence_pair (b.update l (fun c => { c with countedTo := x.tick })) p (by rwa [hs.paired])
      (by rw [hs.1]; exact hm)
    rw [CounterBank.update_self, CounterBank.update_ne _ _ hn.symm] at key
    rw [if_pos g, o]
    unfold CounterBank.countTick
    rw [Counter.tickDue_eq, if_pos g]
    exact key.counted _ _
  · rw [if_neg g]
    by_cases o : (b.k.get l).occursAt x = true
    · rw [if_pos o, o]
      exact b.occurrence_pair p hb hm
    · rw [if_neg o, Bool.eq_false_iff.2 o]
      exact PairHandled.idle _ _

/-- The high counter of a pair counts nothing by itself; only the tick of its TICK occurrences goes on (R60, R61). -/
theorem CounterBank.countSample_high (x : Sample) (b : CounterBank) (k : Fin 4)
    (h : (b.k.get k).settings.mode = .cascade) : ∃ tick,
      CounterBank.countSample x b k = b.update k (fun c => { c with countedTo := tick }) := by
  have same : b = b.update k (fun c => { c with countedTo := (b.k.get k).countedTo }) := by
    unfold CounterBank.update
    dsimp only
    rw [show b.k.set k { b.k.get k with countedTo := (b.k.get k).countedTo } = b.k by fin_cases k <;> rfl]
  rw [CounterBank.countSample_eq]
  split
  · rename_i g
    refine ⟨x.tick, ?_⟩
    unfold CounterBank.countTick
    rw [Counter.tickDue_eq, if_pos g]
    exact CounterBank.occurrence_high _ _ (by rw [CounterBank.update_self]; exact h)
  · split
    · exact ⟨_, (b.occurrence_high k h).trans same⟩
    · exact ⟨_, same⟩

/-- With no gate due, nothing acts. -/
theorem CounterBank.actGate_idle (b : CounterBank) (k : Fin 4) (h : (b.k.get k).gateDue = false) : b.actGate k = b := by
  unfold CounterBank.actGate
  dsimp only
  rw [h]
  rfl

/-- Gates leave a counter and its partner alone while neither has one due (R66). -/
theorem CounterBank.actGates_pair (b : CounterBank) {l h : Fin 4} (p : isPairOf l h) (hl : (b.k.get l).gateDue = false)
    (hh : (b.k.get h).gateDue = false) : b.actGates.k.get l = b.k.get l ∧ b.actGates.k.get h = b.k.get h := by
  obtain ⟨b', _, el, eh, e1, e2⟩ := Local.actGate.fold_pair b p
  rw [CounterBank.actGate_idle b' l (by rw [el, hl]), CounterBank.actGate_idle b' h (by rw [eh, hh])] at e1 e2
  exact ⟨e1.trans el, e2.trans eh⟩

/-- A capture in a pair (R69). -/
theorem CounterBank.capture_pair (b : CounterBank) {l h : Fin 4} (p : isPairOf l h) (hb : b.paired l) :
    (b.capture l).k.get l = (b.k.get l).captured
      ∧ (b.capture l).k.get h = { b.k.get h with latch := (b.k.get h).value, value := 0 } := by
  obtain ⟨_, _, _, h4, _, _, _, _, hn⟩ := isPairOf.halves p
  unfold CounterBank.capture
  dsimp only
  rw [if_pos ((b.cascaded_iff l).2 hb), h4]
  refine ⟨?_, ?_⟩
  · rw [CounterBank.update_self, CounterBank.update_ne _ _ hn]
    rfl
  · rw [CounterBank.update_ne _ _ hn.symm, CounterBank.update_self]

/-- A period edge after the occurrences of a sample captures a pair (R69). -/
theorem PairHandled.captures {l h l' h' : Counter} {occurs : Bool} (g : PairHandled l h l' h' occurs false)
    (hm : l.settings.mode = .period) :
    PairHandled l h l'.captured { h' with latch := h'.value, value := 0 } occurs true := by
  obtain ⟨p0, p1, _⟩ := g.period hm
  obtain ⟨q1, q2, q3, _⟩ := p1 rfl
  refine ⟨?_, ?_, fun _ => (by decide : (0 : Nat) < 65536), fun q => ?_, fun _ => ⟨p0, fun q => (nomatch q), fun _ => ?_⟩⟩
  · rw [g.low]; rfl
  · rw [g.high]
  · rw [hm] at q; cases q
  · refine ⟨q1, q2, rfl, rfl, rfl, ?_⟩
    rw [← q3, g.low]
    rfl

/-- Only a PERIOD counter captures at a period edge (R64). -/
theorem CounterBank.capturePeriod_other (x : Sample) (b : CounterBank) (k : Fin 4)
    (h : (b.k.get k).settings.mode ≠ .period) : CounterBank.capturePeriod x b k = b := by
  unfold CounterBank.capturePeriod
  exact if_neg (fun q => h q.1)

/-- What a sample does to a pair (R61, R68, R69). -/
theorem CounterBank.handleSample_paired (b : CounterBank) (x : Sample) {l h : Fin 4} (p : isPairOf l h) (hb : b.paired l)
    (hm : (b.k.get l).settings.mode = .count ∨ (b.k.get l).settings.mode = .period)
    (hl : (b.k.get l).gateDue = false) (hh : (b.k.get h).gateDue = false) :
    PairHandled (b.k.get l) (b.k.get h) ((b.handleSample x).k.get l) ((b.handleSample x).k.get h)
      ((b.k.get l).occursAt x) ((b.k.get l).periodEdgeAt x) := by
  have hn := p.halves.2.2.2.2.2.2.2.2
  obtain ⟨b1, s1, l1, h1, el, eh⟩ := (Local.countSample x).fold_pair b p
  have sc := (Local.countSample x).fold_same b
  have sg := Local.actGate.fold_same (allCounters.foldl (CounterBank.countSample x) b)
  have low := CounterBank.countSample_low x b1 p (by rwa [s1.paired]) (by rw [l1]; exact hm)
  obtain ⟨tick, ht⟩ := CounterBank.countSample_high x (CounterBank.countSample x b1 l) h (by
    rw [((Local.countSample x).same b1 l).1, s1.1]
    exact b.paired_high p hb)
  rw [ht, CounterBank.update_ne _ _ hn] at el
  rw [ht, CounterBank.update_self] at eh
  rw [l1, h1] at low
  have counted : PairHandled (b.k.get l) (b.k.get h) ((allCounters.foldl (CounterBank.countSample x) b).k.get l)
      ((allCounters.foldl (CounterBank.countSample x) b).k.get h) ((b.k.get l).occursAt x) false := by
    rw [el, eh]
    exact (PairHandled.counted (b.k.get l).countedTo tick low :)
  obtain ⟨gl, gh⟩ := (allCounters.foldl (CounterBank.countSample x) b).actGates_pair p
    (by rw [counted.low]; exact hl) (by rw [counted.high]; exact hh)
  obtain ⟨b2, s2, l2, h2, fl, fh⟩ :=
    (Local.capturePeriod x).fold_pair (allCounters.foldl (CounterBank.countSample x) b).actGates p
  have hset : (b2.k.get l).settings = (b.k.get l).settings := by rw [l2, gl, sc.1]
  have hhigh : (b2.k.get h).settings.mode = .cascade := by rw [h2, gh, sc.1]; exact b.paired_high p hb
  have quiet : CounterBank.capturePeriod x (CounterBank.capturePeriod x b2 l) h = CounterBank.capturePeriod x b2 l := by
    have e : ((CounterBank.capturePeriod x b2 l).k.get h).settings.mode = .cascade := by
      rw [((Local.capturePeriod x).same b2 l).1]; exact hhigh
    exact CounterBank.capturePeriod_other x _ h (by rw [e]; decide)
  rw [quiet] at fl fh
  have fl' : (b.handleSample x).k.get l = (CounterBank.capturePeriod x b2 l).k.get l := fl
  have fh' : (b.handleSample x).k.get h = (CounterBank.capturePeriod x b2 l).k.get h := fh
  rw [fl', fh']
  have paired2 : b2.paired l := by
    rw [s2.paired, (show (allCounters.foldl (CounterBank.countSample x) b).actGates.paired l ↔ _ from sg.paired l), sc.paired]
    exact hb
  unfold CounterBank.capturePeriod Counter.periodEdgeAt
  dsimp only
  rw [hset, Counter.sampleOccurs_shows]
  by_cases g : (b.k.get l).settings.mode = .period ∧ x.showsEdge (b.k.get l).settings.periodChannel (b.k.get l).settings.periodEdge = true
  · rw [if_pos g, (b2.capture_pair p paired2).1, (b2.capture_pair p paired2).2, l2, h2, gl, gh]
    rw [show (((b.k.get l).settings.mode == .period)
      && x.showsEdge (b.k.get l).settings.periodChannel (b.k.get l).settings.periodEdge) = true by simp [g]]
    exact counted.captures g.1
  · rw [if_neg g, l2, h2, gl, gh]
    rw [show (((b.k.get l).settings.mode == .period)
      && x.showsEdge (b.k.get l).settings.periodChannel (b.k.get l).settings.periodEdge) = false by simpa using g]
    exact counted

/-! ## The bank as a whole -/

/-- A sample keeps settings and cascades. -/
theorem CounterBank.handleSample_same (b : CounterBank) (x : Sample) : sameSettings (b.handleSample x) b :=
  ((Local.capturePeriod x).fold_same _).trans ((Local.actGate.fold_same _).trans ((Local.countSample x).fold_same b))

theorem CounterBank.handlesWell (b : CounterBank) (x : Sample) : b.HandlesWell x := by
  refine ⟨(b.handleSample_same x).2, fun k => b.handleSample_alone x k, fun l h p => b.handleSample_paired x p, ?_⟩
  intro k
  dsimp only
  have hev : (b.handleSample x).events.get k = ⟨((b.handleSample x).k.get k).raised
      && !((b.handleSample x).cascaded k && !isLow k), (b.handleSample x).countLatch k, (b.handleSample x).countMark k⟩ := by
    unfold CounterBank.events
    simp
  have hpair := (b.handleSample_same x).paired k
  refine ⟨fun n => ?_, fun l h p hb => ⟨?_, ?_⟩⟩
  · have e := ((b.handleSample x).cascaded_false k).2 (by rwa [hpair])
    rw [hev]
    unfold CounterBank.countLatch CounterBank.countMark
    simp [e]
  · rintro rfl
    obtain ⟨_, _, h3, h4, _, _, h7, _, _⟩ := isPairOf.halves p
    have e := ((b.handleSample x).cascaded_iff k).2 (by rwa [hpair])
    rw [hev]
    unfold CounterBank.countLatch CounterBank.countMark
    simp [e, h3, h4, h7]
  · rintro rfl
    have e := ((b.handleSample x).cascaded_iff k).2 (by rwa [hpair])
    rw [hev]
    simp [e, (isPairOf.halves p).2.2.2.2.2.2.2.1]

theorem CounterBank.restartsWell (b : CounterBank) (set : BitVec 4) (tick : Nat) : b.RestartsWell set tick := by
  have hk : ∀ k, (b.restart set tick).k.get k =
      if set.getLsbD k.val || (b.cascaded k && set.getLsbD (partnerOf k).val) then (b.k.get k).restart tick
      else b.k.get k := by
    intro k
    unfold CounterBank.restart
    dsimp only
    rw [Quad.get_mapIdx]
  have hc : ∀ k : Fin 4, (set.getLsbD k.val || (b.cascaded k && set.getLsbD (partnerOf k).val)) = true ↔
      (set.getLsbD k.val = true ∨ (b.paired k ∧ set.getLsbD (partnerOf k).val = true)) := by
    intro k
    rw [Bool.or_eq_true, Bool.and_eq_true, b.cascaded_iff]
  refine ⟨⟨rfl, rfl⟩, fun k h => ?_, fun k h => ?_⟩
  · rw [hk, if_pos ((hc k).2 h)]
    rfl
  · rw [hk, if_neg (fun g => h ((hc k).1 g))]

theorem CounterBank.stops (b : CounterBank) : CountersStopped b b.stop := by
  refine ⟨(Local.actGate.fold_same b).2, fun k h => ?_⟩
  rcases h with h | ⟨h1, h2⟩
  · exact b.actGates_alone k h
  · have idle : (b.k.get k).gateActs = b.k.get k := by
      unfold Counter.gateActs
      rw [if_pos h1]
    rw [idle]
    rcases isPairOf_cases k with p | p
    · exact (b.actGates_pair p h1 h2).1
    · exact (b.actGates_pair p h2 h1).2

end Sys2Proof.Machine
end

