-- ==== Sys2Proof/Laws/State.lean ====
section
/-! SUPPORT. One lemma per field of State and per update: the updated field reads as written, the others as before. -/

namespace Sys2Proof.Machine

section withTime
variable (s : State) (x : Timebase)
@[simp] theorem State.withTime_time : (s.withTime x).time = x := rfl
@[simp] theorem State.withTime_pfe : (s.withTime x).pfe = s.pfe := rfl
@[simp] theorem State.withTime_sampler : (s.withTime x).sampler = s.sampler := rfl
@[simp] theorem State.withTime_store : (s.withTime x).store = s.store := rfl
@[simp] theorem State.withTime_readout : (s.withTime x).readout = s.readout := rfl
@[simp] theorem State.withTime_capture : (s.withTime x).capture = s.capture := rfl
@[simp] theorem State.withTime_counters : (s.withTime x).counters = s.counters := rfl
@[simp] theorem State.withTime_seq : (s.withTime x).seq = s.seq := rfl
@[simp] theorem State.withTime_decoders : (s.withTime x).decoders = s.decoders := rfl
@[simp] theorem State.withTime_streamer : (s.withTime x).streamer = s.streamer := rfl
@[simp] theorem State.withTime_columns : (s.withTime x).columns = s.columns := rfl
@[simp] theorem State.withTime_link : (s.withTime x).link = s.link := rfl
@[simp] theorem State.withTime_orders : (s.withTime x).orders = s.orders := rfl
@[simp] theorem State.withTime_resetHeld : (s.withTime x).resetHeld = s.resetHeld := rfl
@[simp] theorem State.withTime_freeDraws : (s.withTime x).freeDraws = s.freeDraws := rfl
@[simp] theorem State.withTime_pending : (s.withTime x).pending = s.pending := rfl
end withTime

section withPfe
variable (s : State) (x : Pfe)
@[simp] theorem State.withPfe_time : (s.withPfe x).time = s.time := rfl
@[simp] theorem State.withPfe_pfe : (s.withPfe x).pfe = x := rfl
@[simp] theorem State.withPfe_sampler : (s.withPfe x).sampler = s.sampler := rfl
@[simp] theorem State.withPfe_store : (s.withPfe x).store = s.store := rfl
@[simp] theorem State.withPfe_readout : (s.withPfe x).readout = s.readout := rfl
@[simp] theorem State.withPfe_capture : (s.withPfe x).capture = s.capture := rfl
@[simp] theorem State.withPfe_counters : (s.withPfe x).counters = s.counters := rfl
@[simp] theorem State.withPfe_seq : (s.withPfe x).seq = s.seq := rfl
@[simp] theorem State.withPfe_decoders : (s.withPfe x).decoders = s.decoders := rfl
@[simp] theorem State.withPfe_streamer : (s.withPfe x).streamer = s.streamer := rfl
@[simp] theorem State.withPfe_columns : (s.withPfe x).columns = s.columns := rfl
@[simp] theorem State.withPfe_link : (s.withPfe x).link = s.link := rfl
@[simp] theorem State.withPfe_orders : (s.withPfe x).orders = s.orders := rfl
@[simp] theorem State.withPfe_resetHeld : (s.withPfe x).resetHeld = s.resetHeld := rfl
@[simp] theorem State.withPfe_freeDraws : (s.withPfe x).freeDraws = s.freeDraws := rfl
@[simp] theorem State.withPfe_pending : (s.withPfe x).pending = s.pending := rfl
end withPfe

section withSampler
variable (s : State) (x : Sampler)
@[simp] theorem State.withSampler_time : (s.withSampler x).time = s.time := rfl
@[simp] theorem State.withSampler_pfe : (s.withSampler x).pfe = s.pfe := rfl
@[simp] theorem State.withSampler_sampler : (s.withSampler x).sampler = x := rfl
@[simp] theorem State.withSampler_store : (s.withSampler x).store = s.store := rfl
@[simp] theorem State.withSampler_readout : (s.withSampler x).readout = s.readout := rfl
@[simp] theorem State.withSampler_capture : (s.withSampler x).capture = s.capture := rfl
@[simp] theorem State.withSampler_counters : (s.withSampler x).counters = s.counters := rfl
@[simp] theorem State.withSampler_seq : (s.withSampler x).seq = s.seq := rfl
@[simp] theorem State.withSampler_decoders : (s.withSampler x).decoders = s.decoders := rfl
@[simp] theorem State.withSampler_streamer : (s.withSampler x).streamer = s.streamer := rfl
@[simp] theorem State.withSampler_columns : (s.withSampler x).columns = s.columns := rfl
@[simp] theorem State.withSampler_link : (s.withSampler x).link = s.link := rfl
@[simp] theorem State.withSampler_orders : (s.withSampler x).orders = s.orders := rfl
@[simp] theorem State.withSampler_resetHeld : (s.withSampler x).resetHeld = s.resetHeld := rfl
@[simp] theorem State.withSampler_freeDraws : (s.withSampler x).freeDraws = s.freeDraws := rfl
@[simp] theorem State.withSampler_pending : (s.withSampler x).pending = s.pending := rfl
end withSampler

section withStore
variable (s : State) (x : Store)
@[simp] theorem State.withStore_time : (s.withStore x).time = s.time := rfl
@[simp] theorem State.withStore_pfe : (s.withStore x).pfe = s.pfe := rfl
@[simp] theorem State.withStore_sampler : (s.withStore x).sampler = s.sampler := rfl
@[simp] theorem State.withStore_store : (s.withStore x).store = x := rfl
@[simp] theorem State.withStore_readout : (s.withStore x).readout = s.readout := rfl
@[simp] theorem State.withStore_capture : (s.withStore x).capture = s.capture := rfl
@[simp] theorem State.withStore_counters : (s.withStore x).counters = s.counters := rfl
@[simp] theorem State.withStore_seq : (s.withStore x).seq = s.seq := rfl
@[simp] theorem State.withStore_decoders : (s.withStore x).decoders = s.decoders := rfl
@[simp] theorem State.withStore_streamer : (s.withStore x).streamer = s.streamer := rfl
@[simp] theorem State.withStore_columns : (s.withStore x).columns = s.columns := rfl
@[simp] theorem State.withStore_link : (s.withStore x).link = s.link := rfl
@[simp] theorem State.withStore_orders : (s.withStore x).orders = s.orders := rfl
@[simp] theorem State.withStore_resetHeld : (s.withStore x).resetHeld = s.resetHeld := rfl
@[simp] theorem State.withStore_freeDraws : (s.withStore x).freeDraws = s.freeDraws := rfl
@[simp] theorem State.withStore_pending : (s.withStore x).pending = s.pending := rfl
end withStore

section withReadout
variable (s : State) (x : Readout)
@[simp] theorem State.withReadout_time : (s.withReadout x).time = s.time := rfl
@[simp] theorem State.withReadout_pfe : (s.withReadout x).pfe = s.pfe := rfl
@[simp] theorem State.withReadout_sampler : (s.withReadout x).sampler = s.sampler := rfl
@[simp] theorem State.withReadout_store : (s.withReadout x).store = s.store := rfl
@[simp] theorem State.withReadout_readout : (s.withReadout x).readout = x := rfl
@[simp] theorem State.withReadout_capture : (s.withReadout x).capture = s.capture := rfl
@[simp] theorem State.withReadout_counters : (s.withReadout x).counters = s.counters := rfl
@[simp] theorem State.withReadout_seq : (s.withReadout x).seq = s.seq := rfl
@[simp] theorem State.withReadout_decoders : (s.withReadout x).decoders = s.decoders := rfl
@[simp] theorem State.withReadout_streamer : (s.withReadout x).streamer = s.streamer := rfl
@[simp] theorem State.withReadout_columns : (s.withReadout x).columns = s.columns := rfl
@[simp] theorem State.withReadout_link : (s.withReadout x).link = s.link := rfl
@[simp] theorem State.withReadout_orders : (s.withReadout x).orders = s.orders := rfl
@[simp] theorem State.withReadout_resetHeld : (s.withReadout x).resetHeld = s.resetHeld := rfl
@[simp] theorem State.withReadout_freeDraws : (s.withReadout x).freeDraws = s.freeDraws := rfl
@[simp] theorem State.withReadout_pending : (s.withReadout x).pending = s.pending := rfl
end withReadout

section withCapture
variable (s : State) (x : CaptureControl)
@[simp] theorem State.withCapture_time : (s.withCapture x).time = s.time := rfl
@[simp] theorem State.withCapture_pfe : (s.withCapture x).pfe = s.pfe := rfl
@[simp] theorem State.withCapture_sampler : (s.withCapture x).sampler = s.sampler := rfl
@[simp] theorem State.withCapture_store : (s.withCapture x).store = s.store := rfl
@[simp] theorem State.withCapture_readout : (s.withCapture x).readout = s.readout := rfl
@[simp] theorem State.withCapture_capture : (s.withCapture x).capture = x := rfl
@[simp] theorem State.withCapture_counters : (s.withCapture x).counters = s.counters := rfl
@[simp] theorem State.withCapture_seq : (s.withCapture x).seq = s.seq := rfl
@[simp] theorem State.withCapture_decoders : (s.withCapture x).decoders = s.decoders := rfl
@[simp] theorem State.withCapture_streamer : (s.withCapture x).streamer = s.streamer := rfl
@[simp] theorem State.withCapture_columns : (s.withCapture x).columns = s.columns := rfl
@[simp] theorem State.withCapture_link : (s.withCapture x).link = s.link := rfl
@[simp] theorem State.withCapture_orders : (s.withCapture x).orders = s.orders := rfl
@[simp] theorem State.withCapture_resetHeld : (s.withCapture x).resetHeld = s.resetHeld := rfl
@[simp] theorem State.withCapture_freeDraws : (s.withCapture x).freeDraws = s.freeDraws := rfl
@[simp] theorem State.withCapture_pending : (s.withCapture x).pending = s.pending := rfl
end withCapture

section withCounters
variable (s : State) (x : CounterBank)
@[simp] theorem State.withCounters_time : (s.withCounters x).time = s.time := rfl
@[simp] theorem State.withCounters_pfe : (s.withCounters x).pfe = s.pfe := rfl
@[simp] theorem State.withCounters_sampler : (s.withCounters x).sampler = s.sampler := rfl
@[simp] theorem State.withCounters_store : (s.withCounters x).store = s.store := rfl
@[simp] theorem State.withCounters_readout : (s.withCounters x).readout = s.readout := rfl
@[simp] theorem State.withCounters_capture : (s.withCounters x).capture = s.capture := rfl
@[simp] theorem State.withCounters_counters : (s.withCounters x).counters = x := rfl
@[simp] theorem State.withCounters_seq : (s.withCounters x).seq = s.seq := rfl
@[simp] theorem State.withCounters_decoders : (s.withCounters x).decoders = s.decoders := rfl
@[simp] theorem State.withCounters_streamer : (s.withCounters x).streamer = s.streamer := rfl
@[simp] theorem State.withCounters_columns : (s.withCounters x).columns = s.columns := rfl
@[simp] theorem State.withCounters_link : (s.withCounters x).link = s.link := rfl
@[simp] theorem State.withCounters_orders : (s.withCounters x).orders = s.orders := rfl
@[simp] theorem State.withCounters_resetHeld : (s.withCounters x).resetHeld = s.resetHeld := rfl
@[simp] theorem State.withCounters_freeDraws : (s.withCounters x).freeDraws = s.freeDraws := rfl
@[simp] theorem State.withCounters_pending : (s.withCounters x).pending = s.pending := rfl
end withCounters

section withSeq
variable (s : State) (x : Sequencer)
@[simp] theorem State.withSeq_time : (s.withSeq x).time = s.time := rfl
@[simp] theorem State.withSeq_pfe : (s.withSeq x).pfe = s.pfe := rfl
@[simp] theorem State.withSeq_sampler : (s.withSeq x).sampler = s.sampler := rfl
@[simp] theorem State.withSeq_store : (s.withSeq x).store = s.store := rfl
@[simp] theorem State.withSeq_readout : (s.withSeq x).readout = s.readout := rfl
@[simp] theorem State.withSeq_capture : (s.withSeq x).capture = s.capture := rfl
@[simp] theorem State.withSeq_counters : (s.withSeq x).counters = s.counters := rfl
@[simp] theorem State.withSeq_seq : (s.withSeq x).seq = x := rfl
@[simp] theorem State.withSeq_decoders : (s.withSeq x).decoders = s.decoders := rfl
@[simp] theorem State.withSeq_streamer : (s.withSeq x).streamer = s.streamer := rfl
@[simp] theorem State.withSeq_columns : (s.withSeq x).columns = s.columns := rfl
@[simp] theorem State.withSeq_link : (s.withSeq x).link = s.link := rfl
@[simp] theorem State.withSeq_orders : (s.withSeq x).orders = s.orders := rfl
@[simp] theorem State.withSeq_resetHeld : (s.withSeq x).resetHeld = s.resetHeld := rfl
@[simp] theorem State.withSeq_freeDraws : (s.withSeq x).freeDraws = s.freeDraws := rfl
@[simp] theorem State.withSeq_pending : (s.withSeq x).pending = s.pending := rfl
end withSeq

section withDecoders
variable (s : State) (x : DecoderBank)
@[simp] theorem State.withDecoders_time : (s.withDecoders x).time = s.time := rfl
@[simp] theorem State.withDecoders_pfe : (s.withDecoders x).pfe = s.pfe := rfl
@[simp] theorem State.withDecoders_sampler : (s.withDecoders x).sampler = s.sampler := rfl
@[simp] theorem State.withDecoders_store : (s.withDecoders x).store = s.store := rfl
@[simp] theorem State.withDecoders_readout : (s.withDecoders x).readout = s.readout := rfl
@[simp] theorem State.withDecoders_capture : (s.withDecoders x).capture = s.capture := rfl
@[simp] theorem State.withDecoders_counters : (s.withDecoders x).counters = s.counters := rfl
@[simp] theorem State.withDecoders_seq : (s.withDecoders x).seq = s.seq := rfl
@[simp] theorem State.withDecoders_decoders : (s.withDecoders x).decoders = x := rfl
@[simp] theorem State.withDecoders_streamer : (s.withDecoders x).streamer = s.streamer := rfl
@[simp] theorem State.withDecoders_columns : (s.withDecoders x).columns = s.columns := rfl
@[simp] theorem State.withDecoders_link : (s.withDecoders x).link = s.link := rfl
@[simp] theorem State.withDecoders_orders : (s.withDecoders x).orders = s.orders := rfl
@[simp] theorem State.withDecoders_resetHeld : (s.withDecoders x).resetHeld = s.resetHeld := rfl
@[simp] theorem State.withDecoders_freeDraws : (s.withDecoders x).freeDraws = s.freeDraws := rfl
@[simp] theorem State.withDecoders_pending : (s.withDecoders x).pending = s.pending := rfl
end withDecoders

section withStreamer
variable (s : State) (x : Streamer)
@[simp] theorem State.withStreamer_time : (s.withStreamer x).time = s.time := rfl
@[simp] theorem State.withStreamer_pfe : (s.withStreamer x).pfe = s.pfe := rfl
@[simp] theorem State.withStreamer_sampler : (s.withStreamer x).sampler = s.sampler := rfl
@[simp] theorem State.withStreamer_store : (s.withStreamer x).store = s.store := rfl
@[simp] theorem State.withStreamer_readout : (s.withStreamer x).readout = s.readout := rfl
@[simp] theorem State.withStreamer_capture : (s.withStreamer x).capture = s.capture := rfl
@[simp] theorem State.withStreamer_counters : (s.withStreamer x).counters = s.counters := rfl
@[simp] theorem State.withStreamer_seq : (s.withStreamer x).seq = s.seq := rfl
@[simp] theorem State.withStreamer_decoders : (s.withStreamer x).decoders = s.decoders := rfl
@[simp] theorem State.withStreamer_streamer : (s.withStreamer x).streamer = x := rfl
@[simp] theorem State.withStreamer_columns : (s.withStreamer x).columns = s.columns := rfl
@[simp] theorem State.withStreamer_link : (s.withStreamer x).link = s.link := rfl
@[simp] theorem State.withStreamer_orders : (s.withStreamer x).orders = s.orders := rfl
@[simp] theorem State.withStreamer_resetHeld : (s.withStreamer x).resetHeld = s.resetHeld := rfl
@[simp] theorem State.withStreamer_freeDraws : (s.withStreamer x).freeDraws = s.freeDraws := rfl
@[simp] theorem State.withStreamer_pending : (s.withStreamer x).pending = s.pending := rfl
end withStreamer

section withColumns
variable (s : State) (x : ColumnEngine)
@[simp] theorem State.withColumns_time : (s.withColumns x).time = s.time := rfl
@[simp] theorem State.withColumns_pfe : (s.withColumns x).pfe = s.pfe := rfl
@[simp] theorem State.withColumns_sampler : (s.withColumns x).sampler = s.sampler := rfl
@[simp] theorem State.withColumns_store : (s.withColumns x).store = s.store := rfl
@[simp] theorem State.withColumns_readout : (s.withColumns x).readout = s.readout := rfl
@[simp] theorem State.withColumns_capture : (s.withColumns x).capture = s.capture := rfl
@[simp] theorem State.withColumns_counters : (s.withColumns x).counters = s.counters := rfl
@[simp] theorem State.withColumns_seq : (s.withColumns x).seq = s.seq := rfl
@[simp] theorem State.withColumns_decoders : (s.withColumns x).decoders = s.decoders := rfl
@[simp] theorem State.withColumns_streamer : (s.withColumns x).streamer = s.streamer := rfl
@[simp] theorem State.withColumns_columns : (s.withColumns x).columns = x := rfl
@[simp] theorem State.withColumns_link : (s.withColumns x).link = s.link := rfl
@[simp] theorem State.withColumns_orders : (s.withColumns x).orders = s.orders := rfl
@[simp] theorem State.withColumns_resetHeld : (s.withColumns x).resetHeld = s.resetHeld := rfl
@[simp] theorem State.withColumns_freeDraws : (s.withColumns x).freeDraws = s.freeDraws := rfl
@[simp] theorem State.withColumns_pending : (s.withColumns x).pending = s.pending := rfl
end withColumns

section withLink
variable (s : State) (x : LinkController)
@[simp] theorem State.withLink_time : (s.withLink x).time = s.time := rfl
@[simp] theorem State.withLink_pfe : (s.withLink x).pfe = s.pfe := rfl
@[simp] theorem State.withLink_sampler : (s.withLink x).sampler = s.sampler := rfl
@[simp] theorem State.withLink_store : (s.withLink x).store = s.store := rfl
@[simp] theorem State.withLink_readout : (s.withLink x).readout = s.readout := rfl
@[simp] theorem State.withLink_capture : (s.withLink x).capture = s.capture := rfl
@[simp] theorem State.withLink_counters : (s.withLink x).counters = s.counters := rfl
@[simp] theorem State.withLink_seq : (s.withLink x).seq = s.seq := rfl
@[simp] theorem State.withLink_decoders : (s.withLink x).decoders = s.decoders := rfl
@[simp] theorem State.withLink_streamer : (s.withLink x).streamer = s.streamer := rfl
@[simp] theorem State.withLink_columns : (s.withLink x).columns = s.columns := rfl
@[simp] theorem State.withLink_link : (s.withLink x).link = x := rfl
@[simp] theorem State.withLink_orders : (s.withLink x).orders = s.orders := rfl
@[simp] theorem State.withLink_resetHeld : (s.withLink x).resetHeld = s.resetHeld := rfl
@[simp] theorem State.withLink_freeDraws : (s.withLink x).freeDraws = s.freeDraws := rfl
@[simp] theorem State.withLink_pending : (s.withLink x).pending = s.pending := rfl
end withLink

section withOrders
variable (s : State) (x : OrderUnit)
@[simp] theorem State.withOrders_time : (s.withOrders x).time = s.time := rfl
@[simp] theorem State.withOrders_pfe : (s.withOrders x).pfe = s.pfe := rfl
@[simp] theorem State.withOrders_sampler : (s.withOrders x).sampler = s.sampler := rfl
@[simp] theorem State.withOrders_store : (s.withOrders x).store = s.store := rfl
@[simp] theorem State.withOrders_readout : (s.withOrders x).readout = s.readout := rfl
@[simp] theorem State.withOrders_capture : (s.withOrders x).capture = s.capture := rfl
@[simp] theorem State.withOrders_counters : (s.withOrders x).counters = s.counters := rfl
@[simp] theorem State.withOrders_seq : (s.withOrders x).seq = s.seq := rfl
@[simp] theorem State.withOrders_decoders : (s.withOrders x).decoders = s.decoders := rfl
@[simp] theorem State.withOrders_streamer : (s.withOrders x).streamer = s.streamer := rfl
@[simp] theorem State.withOrders_columns : (s.withOrders x).columns = s.columns := rfl
@[simp] theorem State.withOrders_link : (s.withOrders x).link = s.link := rfl
@[simp] theorem State.withOrders_orders : (s.withOrders x).orders = x := rfl
@[simp] theorem State.withOrders_resetHeld : (s.withOrders x).resetHeld = s.resetHeld := rfl
@[simp] theorem State.withOrders_freeDraws : (s.withOrders x).freeDraws = s.freeDraws := rfl
@[simp] theorem State.withOrders_pending : (s.withOrders x).pending = s.pending := rfl
end withOrders

section withResetHeld
variable (s : State) (x : Bool)
@[simp] theorem State.withResetHeld_time : (s.withResetHeld x).time = s.time := rfl
@[simp] theorem State.withResetHeld_pfe : (s.withResetHeld x).pfe = s.pfe := rfl
@[simp] theorem State.withResetHeld_sampler : (s.withResetHeld x).sampler = s.sampler := rfl
@[simp] theorem State.withResetHeld_store : (s.withResetHeld x).store = s.store := rfl
@[simp] theorem State.withResetHeld_readout : (s.withResetHeld x).readout = s.readout := rfl
@[simp] theorem State.withResetHeld_capture : (s.withResetHeld x).capture = s.capture := rfl
@[simp] theorem State.withResetHeld_counters : (s.withResetHeld x).counters = s.counters := rfl
@[simp] theorem State.withResetHeld_seq : (s.withResetHeld x).seq = s.seq := rfl
@[simp] theorem State.withResetHeld_decoders : (s.withResetHeld x).decoders = s.decoders := rfl
@[simp] theorem State.withResetHeld_streamer : (s.withResetHeld x).streamer = s.streamer := rfl
@[simp] theorem State.withResetHeld_columns : (s.withResetHeld x).columns = s.columns := rfl
@[simp] theorem State.withResetHeld_link : (s.withResetHeld x).link = s.link := rfl
@[simp] theorem State.withResetHeld_orders : (s.withResetHeld x).orders = s.orders := rfl
@[simp] theorem State.withResetHeld_resetHeld : (s.withResetHeld x).resetHeld = x := rfl
@[simp] theorem State.withResetHeld_freeDraws : (s.withResetHeld x).freeDraws = s.freeDraws := rfl
@[simp] theorem State.withResetHeld_pending : (s.withResetHeld x).pending = s.pending := rfl
end withResetHeld

section withFreeDraws
variable (s : State) (x : Nat)
@[simp] theorem State.withFreeDraws_time : (s.withFreeDraws x).time = s.time := rfl
@[simp] theorem State.withFreeDraws_pfe : (s.withFreeDraws x).pfe = s.pfe := rfl
@[simp] theorem State.withFreeDraws_sampler : (s.withFreeDraws x).sampler = s.sampler := rfl
@[simp] theorem State.withFreeDraws_store : (s.withFreeDraws x).store = s.store := rfl
@[simp] theorem State.withFreeDraws_readout : (s.withFreeDraws x).readout = s.readout := rfl
@[simp] theorem State.withFreeDraws_capture : (s.withFreeDraws x).capture = s.capture := rfl
@[simp] theorem State.withFreeDraws_counters : (s.withFreeDraws x).counters = s.counters := rfl
@[simp] theorem State.withFreeDraws_seq : (s.withFreeDraws x).seq = s.seq := rfl
@[simp] theorem State.withFreeDraws_decoders : (s.withFreeDraws x).decoders = s.decoders := rfl
@[simp] theorem State.withFreeDraws_streamer : (s.withFreeDraws x).streamer = s.streamer := rfl
@[simp] theorem State.withFreeDraws_columns : (s.withFreeDraws x).columns = s.columns := rfl
@[simp] theorem State.withFreeDraws_link : (s.withFreeDraws x).link = s.link := rfl
@[simp] theorem State.withFreeDraws_orders : (s.withFreeDraws x).orders = s.orders := rfl
@[simp] theorem State.withFreeDraws_resetHeld : (s.withFreeDraws x).resetHeld = s.resetHeld := rfl
@[simp] theorem State.withFreeDraws_freeDraws : (s.withFreeDraws x).freeDraws = x := rfl
@[simp] theorem State.withFreeDraws_pending : (s.withFreeDraws x).pending = s.pending := rfl
end withFreeDraws

section withPending
variable (s : State) (x : List Instr)
@[simp] theorem State.withPending_time : (s.withPending x).time = s.time := rfl
@[simp] theorem State.withPending_pfe : (s.withPending x).pfe = s.pfe := rfl
@[simp] theorem State.withPending_sampler : (s.withPending x).sampler = s.sampler := rfl
@[simp] theorem State.withPending_store : (s.withPending x).store = s.store := rfl
@[simp] theorem State.withPending_readout : (s.withPending x).readout = s.readout := rfl
@[simp] theorem State.withPending_capture : (s.withPending x).capture = s.capture := rfl
@[simp] theorem State.withPending_counters : (s.withPending x).counters = s.counters := rfl
@[simp] theorem State.withPending_seq : (s.withPending x).seq = s.seq := rfl
@[simp] theorem State.withPending_decoders : (s.withPending x).decoders = s.decoders := rfl
@[simp] theorem State.withPending_streamer : (s.withPending x).streamer = s.streamer := rfl
@[simp] theorem State.withPending_columns : (s.withPending x).columns = s.columns := rfl
@[simp] theorem State.withPending_link : (s.withPending x).link = s.link := rfl
@[simp] theorem State.withPending_orders : (s.withPending x).orders = s.orders := rfl
@[simp] theorem State.withPending_resetHeld : (s.withPending x).resetHeld = s.resetHeld := rfl
@[simp] theorem State.withPending_freeDraws : (s.withPending x).freeDraws = s.freeDraws := rfl
@[simp] theorem State.withPending_pending : (s.withPending x).pending = x := rfl
end withPending

end Sys2Proof.Machine
end

