-- ==== Sys2Proof/Laws/Store.lean ====
section
/-! SUPPORT. What placing records can change: the store, the readout unit and the Column Engine, and nothing else; the store keeps its capacity. -/

namespace Sys2Proof.Machine

/-! ## Announcements -/

@[simp] theorem State.announce_time (s : State) (q : Nat) : (s.announce q).time = s.time := by
  unfold State.announce State.announceToReadout; split <;> (try split) <;> simp [State.finishRead]
@[simp] theorem State.announce_pfe (s : State) (q : Nat) : (s.announce q).pfe = s.pfe := by
  unfold State.announce State.announceToReadout; split <;> (try split) <;> simp [State.finishRead]
@[simp] theorem State.announce_sampler (s : State) (q : Nat) : (s.announce q).sampler = s.sampler := by
  unfold State.announce State.announceToReadout; split <;> (try split) <;> simp [State.finishRead]
@[simp] theorem State.announce_capture (s : State) (q : Nat) : (s.announce q).capture = s.capture := by
  unfold State.announce State.announceToReadout; split <;> (try split) <;> simp [State.finishRead]
@[simp] theorem State.announce_counters (s : State) (q : Nat) : (s.announce q).counters = s.counters := by
  unfold State.announce State.announceToReadout; split <;> (try split) <;> simp [State.finishRead]
@[simp] theorem State.announce_seq (s : State) (q : Nat) : (s.announce q).seq = s.seq := by
  unfold State.announce State.announceToReadout; split <;> (try split) <;> simp [State.finishRead]
@[simp] theorem State.announce_decoders (s : State) (q : Nat) : (s.announce q).decoders = s.decoders := by
  unfold State.announce State.announceToReadout; split <;> (try split) <;> simp [State.finishRead]
@[simp] theorem State.announce_streamer (s : State) (q : Nat) : (s.announce q).streamer = s.streamer := by
  unfold State.announce State.announceToReadout; split <;> (try split) <;> simp [State.finishRead]
@[simp] theorem State.announce_link (s : State) (q : Nat) : (s.announce q).link = s.link := by
  unfold State.announce State.announceToReadout; split <;> (try split) <;> simp [State.finishRead]
@[simp] theorem State.announce_orders (s : State) (q : Nat) : (s.announce q).orders = s.orders := by
  unfold State.announce State.announceToReadout; split <;> (try split) <;> simp [State.finishRead]
@[simp] theorem State.announce_resetHeld (s : State) (q : Nat) : (s.announce q).resetHeld = s.resetHeld := by
  unfold State.announce State.announceToReadout; split <;> (try split) <;> simp [State.finishRead]
@[simp] theorem State.announce_freeDraws (s : State) (q : Nat) : (s.announce q).freeDraws = s.freeDraws := by
  unfold State.announce State.announceToReadout; split <;> (try split) <;> simp [State.finishRead]
@[simp] theorem State.announce_pending (s : State) (q : Nat) : (s.announce q).pending = s.pending := by
  unfold State.announce State.announceToReadout; split <;> (try split) <;> simp [State.finishRead]

/-- An announcement writes no record: it moves at most the last-reference pointer. -/
theorem State.announce_store (s : State) (q : Nat) :
    (s.announce q).store = { s.store with lastRef := (s.announce q).store.lastRef } := by
  unfold State.announce State.announceToReadout; split <;> (try split) <;> simp [State.finishRead]

/-- An announcement leaves everything but the store, the readout unit and the Column Engine. -/
theorem State.announce_frame (s : State) (q : Nat) :
    s.announce q = { s with store := (s.announce q).store, readout := (s.announce q).readout, columns := (s.announce q).columns } := by
  unfold State.announce State.announceToReadout; split <;> (try split) <;> rfl

/-! ## One record -/

/-- Placing a record leaves everything but the store, the readout unit and the Column Engine. -/
theorem State.place_frame {s t : State} {r : Record} (h : s.place r = some t) :
    t = { s with store := t.store, readout := t.readout, columns := t.columns } := by
  unfold State.place at h
  split at h
  · cases h; rfl
  · split at h
    · cases h
      exact State.announce_frame _ _
    · cases h

/-- The store with a record placed keeps its bounds (R20). -/
theorem State.place_bounds {s t : State} {r : Record} (h : s.place r = some t)
    (hc : s.store.records.length ≤ 65536) (hn : s.store.records.length ≤ s.store.nextSeq) :
    t.store.records.length ≤ 65536 ∧ t.store.records.length ≤ t.store.nextSeq := by
  unfold State.place at h
  split at h
  · rename_i hl
    cases h
    simp only [State.withStore_store, Store.append, List.length_append, List.length_singleton]
    simp only [Config.storeCapacity] at hl
    omega
  · split at h
    · cases h
      rw [State.announce_store]
      simp only [State.withStore_store, Store.append, Store.dropOldest, List.length_append, List.length_singleton,
        List.length_drop]
      omega
    · cases h

/-- A placed record leaves the placement list, the floor and the trigger position. -/
theorem State.place_store {s t : State} {r : Record} (h : s.place r = some t) :
    t.store.placement = s.store.placement ∧ t.store.floor = s.store.floor ∧ t.store.trigger = s.store.trigger := by
  unfold State.place at h
  split at h
  · cases h; exact ⟨rfl, rfl, rfl⟩
  · split at h
    · cases h
      rw [State.announce_store]
      exact ⟨rfl, rfl, rfl⟩
    · cases h

/-- With a free slot a record is placed, and nothing but the store changes (R23, R25). -/
theorem State.place_free (s : State) (r : Record) (h : s.store.records.length < 65536) :
    s.place r = some { s with store := { s.store with records := s.store.records ++ [r], nextSeq := s.store.nextSeq + 1 } } := by
  unfold State.place
  rw [if_pos h]
  rfl

/-! ## Several records -/

/-- A property that every placing keeps is kept by a list of them. -/
theorem State.placeList_keeps {p : State → Prop} (hp : ∀ s t r, State.place s r = some t → p s → p t) :
    ∀ (rs : List Record) (s : State), p s → p (State.placeList rs s).1
  | [], _, h => h
  | r :: rs, s, h => by
    unfold State.placeList
    split
    · exact h
    · rename_i t ht
      exact State.placeList_keeps hp rs t (hp s t r ht h)

/-- A property that every placing keeps is kept by further records. -/
theorem placeNext_keeps {p : State → Prop} (hp : ∀ s t r, State.place s r = some t → p s → p t)
    (q : State × Bool) (rs : List Record) (h : p q.1) : p (placeNext q rs).1 := by
  unfold placeNext
  split
  · exact State.placeList_keeps hp rs q.1 h
  · exact h

theorem State.place_time {s t : State} {r : Record} (h : s.place r = some t) : t.time = s.time := by
  rw [State.place_frame h]
theorem State.place_pfe {s t : State} {r : Record} (h : s.place r = some t) : t.pfe = s.pfe := by
  rw [State.place_frame h]
theorem State.place_sampler {s t : State} {r : Record} (h : s.place r = some t) : t.sampler = s.sampler := by
  rw [State.place_frame h]
theorem State.place_capture {s t : State} {r : Record} (h : s.place r = some t) : t.capture = s.capture := by
  rw [State.place_frame h]
theorem State.place_counters {s t : State} {r : Record} (h : s.place r = some t) : t.counters = s.counters := by
  rw [State.place_frame h]
theorem State.place_seq {s t : State} {r : Record} (h : s.place r = some t) : t.seq = s.seq := by
  rw [State.place_frame h]
theorem State.place_decoders {s t : State} {r : Record} (h : s.place r = some t) : t.decoders = s.decoders := by
  rw [State.place_frame h]
theorem State.place_streamer {s t : State} {r : Record} (h : s.place r = some t) : t.streamer = s.streamer := by
  rw [State.place_frame h]
theorem State.place_link {s t : State} {r : Record} (h : s.place r = some t) : t.link = s.link := by
  rw [State.place_frame h]
theorem State.place_orders {s t : State} {r : Record} (h : s.place r = some t) : t.orders = s.orders := by
  rw [State.place_frame h]
theorem State.place_resetHeld {s t : State} {r : Record} (h : s.place r = some t) : t.resetHeld = s.resetHeld := by
  rw [State.place_frame h]
theorem State.place_freeDraws {s t : State} {r : Record} (h : s.place r = some t) : t.freeDraws = s.freeDraws := by
  rw [State.place_frame h]
theorem State.place_pending {s t : State} {r : Record} (h : s.place r = some t) : t.pending = s.pending := by
  rw [State.place_frame h]

@[simp] theorem State.placeList_time (rs : List Record) (s : State) : (State.placeList rs s).1.time = s.time :=
  State.placeList_keeps (p := fun t => t.time = s.time) (fun _ _ _ h k => (State.place_time h).trans k) rs s rfl
@[simp] theorem State.placeList_pfe (rs : List Record) (s : State) : (State.placeList rs s).1.pfe = s.pfe :=
  State.placeList_keeps (p := fun t => t.pfe = s.pfe) (fun _ _ _ h k => (State.place_pfe h).trans k) rs s rfl
@[simp] theorem State.placeList_sampler (rs : List Record) (s : State) : (State.placeList rs s).1.sampler = s.sampler :=
  State.placeList_keeps (p := fun t => t.sampler = s.sampler) (fun _ _ _ h k => (State.place_sampler h).trans k) rs s rfl
@[simp] theorem State.placeList_capture (rs : List Record) (s : State) : (State.placeList rs s).1.capture = s.capture :=
  State.placeList_keeps (p := fun t => t.capture = s.capture) (fun _ _ _ h k => (State.place_capture h).trans k) rs s rfl
@[simp] theorem State.placeList_counters (rs : List Record) (s : State) : (State.placeList rs s).1.counters = s.counters :=
  State.placeList_keeps (p := fun t => t.counters = s.counters) (fun _ _ _ h k => (State.place_counters h).trans k) rs s rfl
@[simp] theorem State.placeList_seq (rs : List Record) (s : State) : (State.placeList rs s).1.seq = s.seq :=
  State.placeList_keeps (p := fun t => t.seq = s.seq) (fun _ _ _ h k => (State.place_seq h).trans k) rs s rfl
@[simp] theorem State.placeList_decoders (rs : List Record) (s : State) : (State.placeList rs s).1.decoders = s.decoders :=
  State.placeList_keeps (p := fun t => t.decoders = s.decoders) (fun _ _ _ h k => (State.place_decoders h).trans k) rs s rfl
@[simp] theorem State.placeList_streamer (rs : List Record) (s : State) : (State.placeList rs s).1.streamer = s.streamer :=
  State.placeList_keeps (p := fun t => t.streamer = s.streamer) (fun _ _ _ h k => (State.place_streamer h).trans k) rs s rfl
@[simp] theorem State.placeList_link (rs : List Record) (s : State) : (State.placeList rs s).1.link = s.link :=
  State.placeList_keeps (p := fun t => t.link = s.link) (fun _ _ _ h k => (State.place_link h).trans k) rs s rfl
@[simp] theorem State.placeList_orders (rs : List Record) (s : State) : (State.placeList rs s).1.orders = s.orders :=
  State.placeList_keeps (p := fun t => t.orders = s.orders) (fun _ _ _ h k => (State.place_orders h).trans k) rs s rfl
@[simp] theorem State.placeList_resetHeld (rs : List Record) (s : State) : (State.placeList rs s).1.resetHeld = s.resetHeld :=
  State.placeList_keeps (p := fun t => t.resetHeld = s.resetHeld) (fun _ _ _ h k => (State.place_resetHeld h).trans k) rs s rfl
@[simp] theorem State.placeList_freeDraws (rs : List Record) (s : State) : (State.placeList rs s).1.freeDraws = s.freeDraws :=
  State.placeList_keeps (p := fun t => t.freeDraws = s.freeDraws) (fun _ _ _ h k => (State.place_freeDraws h).trans k) rs s rfl
@[simp] theorem State.placeList_pending (rs : List Record) (s : State) : (State.placeList rs s).1.pending = s.pending :=
  State.placeList_keeps (p := fun t => t.pending = s.pending) (fun _ _ _ h k => (State.place_pending h).trans k) rs s rfl
@[simp] theorem placeNext_time (q : State × Bool) (rs : List Record) : (placeNext q rs).1.time = q.1.time :=
  placeNext_keeps (p := fun t => t.time = q.1.time) (fun _ _ _ h k => (State.place_time h).trans k) q rs rfl
@[simp] theorem placeNext_pfe (q : State × Bool) (rs : List Record) : (placeNext q rs).1.pfe = q.1.pfe :=
  placeNext_keeps (p := fun t => t.pfe = q.1.pfe) (fun _ _ _ h k => (State.place_pfe h).trans k) q rs rfl
@[simp] theorem placeNext_sampler (q : State × Bool) (rs : List Record) : (placeNext q rs).1.sampler = q.1.sampler :=
  placeNext_keeps (p := fun t => t.sampler = q.1.sampler) (fun _ _ _ h k => (State.place_sampler h).trans k) q rs rfl
@[simp] theorem placeNext_capture (q : State × Bool) (rs : List Record) : (placeNext q rs).1.capture = q.1.capture :=
  placeNext_keeps (p := fun t => t.capture = q.1.capture) (fun _ _ _ h k => (State.place_capture h).trans k) q rs rfl
@[simp] theorem placeNext_counters (q : State × Bool) (rs : List Record) : (placeNext q rs).1.counters = q.1.counters :=
  placeNext_keeps (p := fun t => t.counters = q.1.counters) (fun _ _ _ h k => (State.place_counters h).trans k) q rs rfl
@[simp] theorem placeNext_seq (q : State × Bool) (rs : List Record) : (placeNext q rs).1.seq = q.1.seq :=
  placeNext_keeps (p := fun t => t.seq = q.1.seq) (fun _ _ _ h k => (State.place_seq h).trans k) q rs rfl
@[simp] theorem placeNext_decoders (q : State × Bool) (rs : List Record) : (placeNext q rs).1.decoders = q.1.decoders :=
  placeNext_keeps (p := fun t => t.decoders = q.1.decoders) (fun _ _ _ h k => (State.place_decoders h).trans k) q rs rfl
@[simp] theorem placeNext_streamer (q : State × Bool) (rs : List Record) : (placeNext q rs).1.streamer = q.1.streamer :=
  placeNext_keeps (p := fun t => t.streamer = q.1.streamer) (fun _ _ _ h k => (State.place_streamer h).trans k) q rs rfl
@[simp] theorem placeNext_link (q : State × Bool) (rs : List Record) : (placeNext q rs).1.link = q.1.link :=
  placeNext_keeps (p := fun t => t.link = q.1.link) (fun _ _ _ h k => (State.place_link h).trans k) q rs rfl
@[simp] theorem placeNext_orders (q : State × Bool) (rs : List Record) : (placeNext q rs).1.orders = q.1.orders :=
  placeNext_keeps (p := fun t => t.orders = q.1.orders) (fun _ _ _ h k => (State.place_orders h).trans k) q rs rfl
@[simp] theorem placeNext_resetHeld (q : State × Bool) (rs : List Record) : (placeNext q rs).1.resetHeld = q.1.resetHeld :=
  placeNext_keeps (p := fun t => t.resetHeld = q.1.resetHeld) (fun _ _ _ h k => (State.place_resetHeld h).trans k) q rs rfl
@[simp] theorem placeNext_freeDraws (q : State × Bool) (rs : List Record) : (placeNext q rs).1.freeDraws = q.1.freeDraws :=
  placeNext_keeps (p := fun t => t.freeDraws = q.1.freeDraws) (fun _ _ _ h k => (State.place_freeDraws h).trans k) q rs rfl
@[simp] theorem placeNext_pending (q : State × Bool) (rs : List Record) : (placeNext q rs).1.pending = q.1.pending :=
  placeNext_keeps (p := fun t => t.pending = q.1.pending) (fun _ _ _ h k => (State.place_pending h).trans k) q rs rfl

end Sys2Proof.Machine
end

