-- ==== Sys2Proof/Laws/Capture.lean ====
section
/-! SUPPORT. What the capture end, a discard, an ARM and a sample can change. -/

namespace Sys2Proof.Machine

/-! ## The capture end -/

@[simp] theorem State.closeLastRun_time (s : State) (w : Reason) : (s.closeLastRun w).1.time = s.time := by
  unfold State.closeLastRun; repeat' split
  all_goals first | rfl | exact State.place_time (by assumption)
@[simp] theorem State.closeLastRun_pfe (s : State) (w : Reason) : (s.closeLastRun w).1.pfe = s.pfe := by
  unfold State.closeLastRun; repeat' split
  all_goals first | rfl | exact State.place_pfe (by assumption)
@[simp] theorem State.closeLastRun_sampler (s : State) (w : Reason) : (s.closeLastRun w).1.sampler = s.sampler := by
  unfold State.closeLastRun; repeat' split
  all_goals first | rfl | exact State.place_sampler (by assumption)
@[simp] theorem State.closeLastRun_capture (s : State) (w : Reason) : (s.closeLastRun w).1.capture = s.capture := by
  unfold State.closeLastRun; repeat' split
  all_goals first | rfl | exact State.place_capture (by assumption)
@[simp] theorem State.closeLastRun_counters (s : State) (w : Reason) : (s.closeLastRun w).1.counters = s.counters := by
  unfold State.closeLastRun; repeat' split
  all_goals first | rfl | exact State.place_counters (by assumption)
@[simp] theorem State.closeLastRun_seq (s : State) (w : Reason) : (s.closeLastRun w).1.seq = s.seq := by
  unfold State.closeLastRun; repeat' split
  all_goals first | rfl | exact State.place_seq (by assumption)
@[simp] theorem State.closeLastRun_decoders (s : State) (w : Reason) : (s.closeLastRun w).1.decoders = s.decoders := by
  unfold State.closeLastRun; repeat' split
  all_goals first | rfl | exact State.place_decoders (by assumption)
@[simp] theorem State.closeLastRun_streamer (s : State) (w : Reason) : (s.closeLastRun w).1.streamer = s.streamer := by
  unfold State.closeLastRun; repeat' split
  all_goals first | rfl | exact State.place_streamer (by assumption)
@[simp] theorem State.closeLastRun_link (s : State) (w : Reason) : (s.closeLastRun w).1.link = s.link := by
  unfold State.closeLastRun; repeat' split
  all_goals first | rfl | exact State.place_link (by assumption)
@[simp] theorem State.closeLastRun_orders (s : State) (w : Reason) : (s.closeLastRun w).1.orders = s.orders := by
  unfold State.closeLastRun; repeat' split
  all_goals first | rfl | exact State.place_orders (by assumption)
@[simp] theorem State.closeLastRun_resetHeld (s : State) (w : Reason) : (s.closeLastRun w).1.resetHeld = s.resetHeld := by
  unfold State.closeLastRun; repeat' split
  all_goals first | rfl | exact State.place_resetHeld (by assumption)
@[simp] theorem State.closeLastRun_freeDraws (s : State) (w : Reason) : (s.closeLastRun w).1.freeDraws = s.freeDraws := by
  unfold State.closeLastRun; repeat' split
  all_goals first | rfl | exact State.place_freeDraws (by assumption)
@[simp] theorem State.closeLastRun_pending (s : State) (w : Reason) : (s.closeLastRun w).1.pending = s.pending := by
  unfold State.closeLastRun; repeat' split
  all_goals first | rfl | exact State.place_pending (by assumption)

/-- Closing the last run keeps the bounds of the store. -/
theorem State.closeLastRun_bounds (s : State) (w : Reason)
    (hc : s.store.records.length ≤ 65536) (hn : s.store.records.length ≤ s.store.nextSeq) :
    (s.closeLastRun w).1.store.records.length ≤ 65536
      ∧ (s.closeLastRun w).1.store.records.length ≤ (s.closeLastRun w).1.store.nextSeq := by
  unfold State.closeLastRun
  repeat' split
  all_goals first | exact ⟨hc, hn⟩ | exact State.place_bounds (by assumption) hc hn

/-- The reason recorded is the one that was ending the capture, or STORE_LIMIT in its place (R26). -/
theorem State.closeLastRun_reason (s : State) (w : Reason) :
    (s.closeLastRun w).2 = w ∨ (s.closeLastRun w).2 = .storeLimit := by
  unfold State.closeLastRun
  repeat' split
  all_goals simp_all

/-- With a free slot the closing run is placed and the reason stands. -/
theorem State.closeLastRun_reason_free (s : State) (w : Reason) (h : s.store.records.length < 65536) :
    (s.closeLastRun w).2 = w := by
  unfold State.closeLastRun
  repeat' split
  all_goals simp_all [State.place_free]

@[simp] theorem State.endCapture_time (s : State) (w : Reason) : (s.endCapture w).time = s.time := by
  simp [State.endCapture, State.withNotices]
@[simp] theorem State.endCapture_pfe (s : State) (w : Reason) : (s.endCapture w).pfe = s.pfe := by
  simp [State.endCapture, State.withNotices]
@[simp] theorem State.endCapture_seq (s : State) (w : Reason) : (s.endCapture w).seq = s.seq := by
  simp [State.endCapture, State.withNotices]
@[simp] theorem State.endCapture_streamer (s : State) (w : Reason) : (s.endCapture w).streamer = s.streamer := by
  simp [State.endCapture, State.withNotices]
@[simp] theorem State.endCapture_link (s : State) (w : Reason) : (s.endCapture w).link = s.link := by
  simp [State.endCapture, State.withNotices]
@[simp] theorem State.endCapture_resetHeld (s : State) (w : Reason) : (s.endCapture w).resetHeld = s.resetHeld := by
  simp [State.endCapture, State.withNotices]
@[simp] theorem State.endCapture_freeDraws (s : State) (w : Reason) : (s.endCapture w).freeDraws = s.freeDraws := by
  simp [State.endCapture, State.withNotices]
@[simp] theorem State.endCapture_pending (s : State) (w : Reason) : (s.endCapture w).pending = s.pending := by
  simp [State.endCapture, State.withNotices]
@[simp] theorem State.endCapture_sampler (s : State) (w : Reason) : (s.endCapture w).sampler = s.sampler.stop := by
  simp [State.endCapture, State.withNotices]
@[simp] theorem State.endCapture_counters (s : State) (w : Reason) : (s.endCapture w).counters = s.counters.stop := by
  simp [State.endCapture, State.withNotices]
@[simp] theorem State.endCapture_decoders (s : State) (w : Reason) : (s.endCapture w).decoders = s.decoders.stop := by
  simp [State.endCapture, State.withNotices]
@[simp] theorem State.endCapture_capture (s : State) (w : Reason) :
    (s.endCapture w).capture = s.capture.finish (s.closeLastRun w).2 := by
  simp [State.endCapture, State.withNotices]
@[simp] theorem State.endCapture_orders (s : State) (w : Reason) :
    (s.endCapture w).orders = { s.orders with notices := s.orders.notices.setDone (s.closeLastRun w).2 } := by
  simp [State.endCapture, State.withNotices]
@[simp] theorem State.endCapture_store (s : State) (w : Reason) :
    (s.endCapture w).store = { (s.closeLastRun w).1.store with placement := [] } := by
  simp [State.endCapture, State.withNotices]
@[simp] theorem State.endCapture_columns (s : State) (w : Reason) :
    (s.endCapture w).columns = (s.closeLastRun w).1.columns := by
  simp [State.endCapture, State.withNotices]
@[simp] theorem State.endCapture_readout (s : State) (w : Reason) :
    (s.endCapture w).readout = (s.closeLastRun w).1.readout := by
  simp [State.endCapture, State.withNotices]

/-! ## A discard of the decode queue -/

/-- A discard changes the Streamer and may set the DECODE_LOSS notice (R132). -/
theorem State.discardQueue_eq (s : State) :
    s.discardQueue =
      { s with
        streamer := s.streamer.discard s.time.elapsed
        orders :=
          if s.streamer.discardRemoves then { s.orders with notices := s.orders.notices.setDecodeLoss } else s.orders } := by
  unfold State.discardQueue
  dsimp only
  split <;> rfl

/-! ## The end of a reduction -/

@[simp] theorem State.endReduction_time (s : State) (w : EndReason) : (s.endReduction w).time = s.time := by
  unfold State.endReduction State.drawForWindow; repeat' split
  all_goals simp
@[simp] theorem State.endReduction_pfe (s : State) (w : EndReason) : (s.endReduction w).pfe = s.pfe := by
  unfold State.endReduction State.drawForWindow; repeat' split
  all_goals simp
@[simp] theorem State.endReduction_sampler (s : State) (w : EndReason) : (s.endReduction w).sampler = s.sampler := by
  unfold State.endReduction State.drawForWindow; repeat' split
  all_goals simp
@[simp] theorem State.endReduction_store (s : State) (w : EndReason) : (s.endReduction w).store = s.store := by
  unfold State.endReduction State.drawForWindow; repeat' split
  all_goals simp
@[simp] theorem State.endReduction_readout (s : State) (w : EndReason) : (s.endReduction w).readout = s.readout := by
  unfold State.endReduction State.drawForWindow; repeat' split
  all_goals simp
@[simp] theorem State.endReduction_capture (s : State) (w : EndReason) : (s.endReduction w).capture = s.capture := by
  unfold State.endReduction State.drawForWindow; repeat' split
  all_goals simp
@[simp] theorem State.endReduction_counters (s : State) (w : EndReason) : (s.endReduction w).counters = s.counters := by
  unfold State.endReduction State.drawForWindow; repeat' split
  all_goals simp
@[simp] theorem State.endReduction_seq (s : State) (w : EndReason) : (s.endReduction w).seq = s.seq := by
  unfold State.endReduction State.drawForWindow; repeat' split
  all_goals simp
@[simp] theorem State.endReduction_decoders (s : State) (w : EndReason) : (s.endReduction w).decoders = s.decoders := by
  unfold State.endReduction State.drawForWindow; repeat' split
  all_goals simp
@[simp] theorem State.endReduction_streamer (s : State) (w : EndReason) : (s.endReduction w).streamer = s.streamer := by
  unfold State.endReduction State.drawForWindow; repeat' split
  all_goals simp
@[simp] theorem State.endReduction_link (s : State) (w : EndReason) : (s.endReduction w).link = s.link := by
  unfold State.endReduction State.drawForWindow; repeat' split
  all_goals simp
@[simp] theorem State.endReduction_orders (s : State) (w : EndReason) : (s.endReduction w).orders = s.orders := by
  unfold State.endReduction State.drawForWindow; repeat' split
  all_goals simp
@[simp] theorem State.endReduction_resetHeld (s : State) (w : EndReason) : (s.endReduction w).resetHeld = s.resetHeld := by
  unfold State.endReduction State.drawForWindow; repeat' split
  all_goals simp
@[simp] theorem State.endReduction_pending (s : State) (w : EndReason) : (s.endReduction w).pending = s.pending := by
  unfold State.endReduction State.drawForWindow; repeat' split
  all_goals simp

/-- A reduction that ends this way is no longer current (R147). -/
@[simp] theorem State.endReduction_current (s : State) (w : EndReason) : (s.endReduction w).columns.current = none := by
  unfold State.endReduction
  repeat' split
  all_goals simp_all

/-! ## ARM -/

@[simp] theorem State.armReadout_time (s : State) : (s.armReadout).time = s.time := by
  unfold State.armReadout; repeat' split
  all_goals simp
@[simp] theorem State.armReadout_pfe (s : State) : (s.armReadout).pfe = s.pfe := by
  unfold State.armReadout; repeat' split
  all_goals simp
@[simp] theorem State.armReadout_sampler (s : State) : (s.armReadout).sampler = s.sampler := by
  unfold State.armReadout; repeat' split
  all_goals simp
@[simp] theorem State.armReadout_store (s : State) : (s.armReadout).store = s.store := by
  unfold State.armReadout; repeat' split
  all_goals simp
@[simp] theorem State.armReadout_capture (s : State) : (s.armReadout).capture = s.capture := by
  unfold State.armReadout; repeat' split
  all_goals simp
@[simp] theorem State.armReadout_counters (s : State) : (s.armReadout).counters = s.counters := by
  unfold State.armReadout; repeat' split
  all_goals simp
@[simp] theorem State.armReadout_seq (s : State) : (s.armReadout).seq = s.seq := by
  unfold State.armReadout; repeat' split
  all_goals simp
@[simp] theorem State.armReadout_decoders (s : State) : (s.armReadout).decoders = s.decoders := by
  unfold State.armReadout; repeat' split
  all_goals simp
@[simp] theorem State.armReadout_streamer (s : State) : (s.armReadout).streamer = s.streamer := by
  unfold State.armReadout; repeat' split
  all_goals simp
@[simp] theorem State.armReadout_columns (s : State) : (s.armReadout).columns = s.columns := by
  unfold State.armReadout; repeat' split
  all_goals simp
@[simp] theorem State.armReadout_link (s : State) : (s.armReadout).link = s.link := by
  unfold State.armReadout; repeat' split
  all_goals simp
@[simp] theorem State.armReadout_orders (s : State) : (s.armReadout).orders = s.orders := by
  unfold State.armReadout; repeat' split
  all_goals simp
@[simp] theorem State.armReadout_resetHeld (s : State) : (s.armReadout).resetHeld = s.resetHeld := by
  unfold State.armReadout; repeat' split
  all_goals simp
@[simp] theorem State.armReadout_freeDraws (s : State) : (s.armReadout).freeDraws = s.freeDraws := by
  unfold State.armReadout; repeat' split
  all_goals simp
@[simp] theorem State.armReadout_pending (s : State) : (s.armReadout).pending = s.pending := by
  unfold State.armReadout; repeat' split
  all_goals simp

@[simp] theorem State.armEffects_time (s : State) : s.armEffects.time = s.time := by
  simp [State.armEffects, State.discardQueue_eq]
@[simp] theorem State.armEffects_pfe (s : State) : s.armEffects.pfe = s.pfe := by
  simp [State.armEffects, State.discardQueue_eq]
@[simp] theorem State.armEffects_link (s : State) : s.armEffects.link = s.link := by
  simp [State.armEffects, State.discardQueue_eq]
@[simp] theorem State.armEffects_resetHeld (s : State) : s.armEffects.resetHeld = s.resetHeld := by
  simp [State.armEffects, State.discardQueue_eq]
@[simp] theorem State.armEffects_pending (s : State) : s.armEffects.pending = s.pending := by
  simp [State.armEffects, State.discardQueue_eq]
@[simp] theorem State.armEffects_sampler (s : State) : s.armEffects.sampler = s.sampler.arm := by
  simp [State.armEffects, State.discardQueue_eq]
@[simp] theorem State.armEffects_store (s : State) : s.armEffects.store = s.store.emptied := by
  simp [State.armEffects, State.discardQueue_eq]
@[simp] theorem State.armEffects_capture (s : State) : s.armEffects.capture = s.capture.arm s.time.tick := by
  simp [State.armEffects, State.discardQueue_eq, State.tick]
@[simp] theorem State.armEffects_counters (s : State) : s.armEffects.counters = s.counters.restartAll s.time.tick := by
  simp [State.armEffects, State.discardQueue_eq, State.tick]
@[simp] theorem State.armEffects_seq (s : State) : s.armEffects.seq = s.seq.arm := by
  simp [State.armEffects, State.discardQueue_eq]
@[simp] theorem State.armEffects_decoders (s : State) : s.armEffects.decoders = s.decoders.arm := by
  simp [State.armEffects, State.discardQueue_eq]
@[simp] theorem State.armEffects_streamer (s : State) : s.armEffects.streamer = s.streamer.discard s.time.elapsed := by
  simp [State.armEffects, State.discardQueue_eq]
@[simp] theorem State.armEffects_current (s : State) : s.armEffects.columns.current = none := by
  simp [State.armEffects, State.discardQueue_eq]
@[simp] theorem State.armEffects_orders (s : State) :
    s.armEffects.orders =
      if s.streamer.discardRemoves then { s.orders with notices := s.orders.notices.setDecodeLoss } else s.orders := by
  simp [State.armEffects, State.discardQueue_eq]
@[simp] theorem State.armEffects_answers (s : State) : s.armEffects.orders.answers = s.orders.answers := by
  rw [State.armEffects_orders]
  split <;> rfl
@[simp] theorem State.armEffects_readout (s : State) : s.armEffects.readout = s.armReadout.readout := by
  simp [State.armEffects, State.discardQueue_eq]

/-- A wake ARM and an ordered ARM leave the fault record, the report station and the load gap timer. -/
theorem State.armEffects_unit (s : State) :
    s.armEffects.orders.fault = s.orders.fault ∧ s.armEffects.orders.reportStation = s.orders.reportStation
      ∧ s.armEffects.orders.loadTimer = s.orders.loadTimer := by
  rw [State.armEffects_orders]
  split <;> exact ⟨rfl, rfl, rfl⟩

/-! ## The trigger -/

@[simp] theorem State.enterTriggered_time (s : State) (t : Nat) (c : Cause) : (s.enterTriggered t c).time = s.time := by
  unfold State.enterTriggered
  simp only [State.withNotices, State.withOrders_time, State.withCapture_time]
  cases h : State.place _ _ with
  | none => rfl
  | some u => simp [State.place_time h]
@[simp] theorem State.enterTriggered_pfe (s : State) (t : Nat) (c : Cause) : (s.enterTriggered t c).pfe = s.pfe := by
  unfold State.enterTriggered
  simp only [State.withNotices, State.withOrders_pfe, State.withCapture_pfe]
  cases h : State.place _ _ with
  | none => rfl
  | some u => simp [State.place_pfe h]
@[simp] theorem State.enterTriggered_sampler (s : State) (t : Nat) (c : Cause) : (s.enterTriggered t c).sampler = s.sampler := by
  unfold State.enterTriggered
  simp only [State.withNotices, State.withOrders_sampler, State.withCapture_sampler]
  cases h : State.place _ _ with
  | none => rfl
  | some u => simp [State.place_sampler h]
@[simp] theorem State.enterTriggered_counters (s : State) (t : Nat) (c : Cause) : (s.enterTriggered t c).counters = s.counters := by
  unfold State.enterTriggered
  simp only [State.withNotices, State.withOrders_counters, State.withCapture_counters]
  cases h : State.place _ _ with
  | none => rfl
  | some u => simp [State.place_counters h]
@[simp] theorem State.enterTriggered_seq (s : State) (t : Nat) (c : Cause) : (s.enterTriggered t c).seq = s.seq := by
  unfold State.enterTriggered
  simp only [State.withNotices, State.withOrders_seq, State.withCapture_seq]
  cases h : State.place _ _ with
  | none => rfl
  | some u => simp [State.place_seq h]
@[simp] theorem State.enterTriggered_decoders (s : State) (t : Nat) (c : Cause) : (s.enterTriggered t c).decoders = s.decoders := by
  unfold State.enterTriggered
  simp only [State.withNotices, State.withOrders_decoders, State.withCapture_decoders]
  cases h : State.place _ _ with
  | none => rfl
  | some u => simp [State.place_decoders h]
@[simp] theorem State.enterTriggered_streamer (s : State) (t : Nat) (c : Cause) : (s.enterTriggered t c).streamer = s.streamer := by
  unfold State.enterTriggered
  simp only [State.withNotices, State.withOrders_streamer, State.withCapture_streamer]
  cases h : State.place _ _ with
  | none => rfl
  | some u => simp [State.place_streamer h]
@[simp] theorem State.enterTriggered_link (s : State) (t : Nat) (c : Cause) : (s.enterTriggered t c).link = s.link := by
  unfold State.enterTriggered
  simp only [State.withNotices, State.withOrders_link, State.withCapture_link]
  cases h : State.place _ _ with
  | none => rfl
  | some u => simp [State.place_link h]
@[simp] theorem State.enterTriggered_resetHeld (s : State) (t : Nat) (c : Cause) : (s.enterTriggered t c).resetHeld = s.resetHeld := by
  unfold State.enterTriggered
  simp only [State.withNotices, State.withOrders_resetHeld, State.withCapture_resetHeld]
  cases h : State.place _ _ with
  | none => rfl
  | some u => simp [State.place_resetHeld h]
@[simp] theorem State.enterTriggered_freeDraws (s : State) (t : Nat) (c : Cause) : (s.enterTriggered t c).freeDraws = s.freeDraws := by
  unfold State.enterTriggered
  simp only [State.withNotices, State.withOrders_freeDraws, State.withCapture_freeDraws]
  cases h : State.place _ _ with
  | none => rfl
  | some u => simp [State.place_freeDraws h]
@[simp] theorem State.enterTriggered_pending (s : State) (t : Nat) (c : Cause) : (s.enterTriggered t c).pending = s.pending := by
  unfold State.enterTriggered
  simp only [State.withNotices, State.withOrders_pending, State.withCapture_pending]
  cases h : State.place _ _ with
  | none => rfl
  | some u => simp [State.place_pending h]

theorem State.enterTriggered_capture (s : State) (t : Nat) (c : Cause) :
    (s.enterTriggered t c).capture = s.capture.trigger := by
  unfold State.enterTriggered
  simp only [State.withNotices, State.withOrders_capture, State.withCapture_capture]
  cases h : State.place _ _ with
  | none => rfl
  | some u => simp [State.place_capture h]

/-- The Order Unit at the trigger: the TRIGGERED notice, with the marker's sequence (R45, R177). -/
theorem State.enterTriggered_orders (s : State) (t : Nat) (c : Cause) :
    (s.enterTriggered t c).orders =
      { s.orders with notices := s.orders.notices.setTriggered ⟨t, s.store.nextSeq, c⟩ } := by
  unfold State.enterTriggered
  simp only [State.withNotices, State.withOrders_orders, State.withCapture_orders]
  cases h : State.place _ _ with
  | none => rfl
  | some u => simp [State.place_orders h]

theorem State.enterTriggered_bounds (s : State) (t : Nat) (c : Cause)
    (hc : s.store.records.length ≤ 65536) (hn : s.store.records.length ≤ s.store.nextSeq) :
    (s.enterTriggered t c).store.records.length ≤ 65536
      ∧ (s.enterTriggered t c).store.records.length ≤ (s.enterTriggered t c).store.nextSeq := by
  unfold State.enterTriggered
  simp only [State.withNotices, State.withOrders_store, State.withCapture_store]
  cases h : State.place _ _ with
  | none => exact ⟨hc, hn⟩
  | some u => exact State.place_bounds h hc hn

/-! ## A sample -/

/-- A property that placing, the sampler's own updates and the entry to TRIGGERED keep is kept by the writes of a sample. -/
theorem State.writeSample_keeps {p : State → Prop}
    (hp : ∀ s t r, State.place s r = some t → p s → p t)
    (hm : ∀ s, p s → p (s.withSampler s.sampler.missesWritten))
    (ht : ∀ s t c, p s → p (s.enterTriggered t c))
    (s : State) (x : Sample) (a : Bool) (run : Option Run) (copies : List Record) (c : Option Cause) (b : Option Taken)
    (h : p s) : p (s.writeSample x a run copies c b).1 := by
  unfold State.writeSample
  apply placeNext_keeps hp
  have h1 : p (State.placeList (run.toList.map .run) s).1 := State.placeList_keeps hp _ _ h
  have h2 : p (placeOverrun (State.placeList (run.toList.map .run) s) x.tick a).1 := by
    unfold placeOverrun
    split
    · dsimp only
      split
      · exact hm _ (placeNext_keeps hp _ _ h1)
      · exact placeNext_keeps hp _ _ h1
    · exact h1
  have h4 := placeNext_keeps hp _ copies (placeNext_keeps hp _ (s.store.signalMarkers x.tick) h2)
  cases c with
  | none => exact h4
  | some k => exact ht _ _ _ h4

@[simp] theorem State.writeSample_time (s : State) (x : Sample) (a : Bool) (run : Option Run) (copies : List Record)
    (c : Option Cause) (b : Option Taken) : (s.writeSample x a run copies c b).1.time = s.time :=
  State.writeSample_keeps (p := fun t => t.time = s.time) (fun _ _ _ h k => (State.place_time h).trans k)
    (fun _ k => by simp [k]) (fun _ _ _ k => by simp [k]) s x a run copies c b rfl
@[simp] theorem State.writeSample_pfe (s : State) (x : Sample) (a : Bool) (run : Option Run) (copies : List Record)
    (c : Option Cause) (b : Option Taken) : (s.writeSample x a run copies c b).1.pfe = s.pfe :=
  State.writeSample_keeps (p := fun t => t.pfe = s.pfe) (fun _ _ _ h k => (State.place_pfe h).trans k)
    (fun _ k => by simp [k]) (fun _ _ _ k => by simp [k]) s x a run copies c b rfl
@[simp] theorem State.writeSample_counters (s : State) (x : Sample) (a : Bool) (run : Option Run) (copies : List Record)
    (c : Option Cause) (b : Option Taken) : (s.writeSample x a run copies c b).1.counters = s.counters :=
  State.writeSample_keeps (p := fun t => t.counters = s.counters) (fun _ _ _ h k => (State.place_counters h).trans k)
    (fun _ k => by simp [k]) (fun _ _ _ k => by simp [k]) s x a run copies c b rfl
@[simp] theorem State.writeSample_seq (s : State) (x : Sample) (a : Bool) (run : Option Run) (copies : List Record)
    (c : Option Cause) (b : Option Taken) : (s.writeSample x a run copies c b).1.seq = s.seq :=
  State.writeSample_keeps (p := fun t => t.seq = s.seq) (fun _ _ _ h k => (State.place_seq h).trans k)
    (fun _ k => by simp [k]) (fun _ _ _ k => by simp [k]) s x a run copies c b rfl
@[simp] theorem State.writeSample_decoders (s : State) (x : Sample) (a : Bool) (run : Option Run) (copies : List Record)
    (c : Option Cause) (b : Option Taken) : (s.writeSample x a run copies c b).1.decoders = s.decoders :=
  State.writeSample_keeps (p := fun t => t.decoders = s.decoders) (fun _ _ _ h k => (State.place_decoders h).trans k)
    (fun _ k => by simp [k]) (fun _ _ _ k => by simp [k]) s x a run copies c b rfl
@[simp] theorem State.writeSample_streamer (s : State) (x : Sample) (a : Bool) (run : Option Run) (copies : List Record)
    (c : Option Cause) (b : Option Taken) : (s.writeSample x a run copies c b).1.streamer = s.streamer :=
  State.writeSample_keeps (p := fun t => t.streamer = s.streamer) (fun _ _ _ h k => (State.place_streamer h).trans k)
    (fun _ k => by simp [k]) (fun _ _ _ k => by simp [k]) s x a run copies c b rfl
@[simp] theorem State.writeSample_link (s : State) (x : Sample) (a : Bool) (run : Option Run) (copies : List Record)
    (c : Option Cause) (b : Option Taken) : (s.writeSample x a run copies c b).1.link = s.link :=
  State.writeSample_keeps (p := fun t => t.link = s.link) (fun _ _ _ h k => (State.place_link h).trans k)
    (fun _ k => by simp [k]) (fun _ _ _ k => by simp [k]) s x a run copies c b rfl
@[simp] theorem State.writeSample_resetHeld (s : State) (x : Sample) (a : Bool) (run : Option Run) (copies : List Record)
    (c : Option Cause) (b : Option Taken) : (s.writeSample x a run copies c b).1.resetHeld = s.resetHeld :=
  State.writeSample_keeps (p := fun t => t.resetHeld = s.resetHeld) (fun _ _ _ h k => (State.place_resetHeld h).trans k)
    (fun _ k => by simp [k]) (fun _ _ _ k => by simp [k]) s x a run copies c b rfl
@[simp] theorem State.writeSample_freeDraws (s : State) (x : Sample) (a : Bool) (run : Option Run) (copies : List Record)
    (c : Option Cause) (b : Option Taken) : (s.writeSample x a run copies c b).1.freeDraws = s.freeDraws :=
  State.writeSample_keeps (p := fun t => t.freeDraws = s.freeDraws) (fun _ _ _ h k => (State.place_freeDraws h).trans k)
    (fun _ k => by simp [k]) (fun _ _ _ k => by simp [k]) s x a run copies c b rfl
@[simp] theorem State.writeSample_pending (s : State) (x : Sample) (a : Bool) (run : Option Run) (copies : List Record)
    (c : Option Cause) (b : Option Taken) : (s.writeSample x a run copies c b).1.pending = s.pending :=
  State.writeSample_keeps (p := fun t => t.pending = s.pending) (fun _ _ _ h k => (State.place_pending h).trans k)
    (fun _ k => by simp [k]) (fun _ _ _ k => by simp [k]) s x a run copies c b rfl

@[simp] theorem State.streamRecords_time (s : State) (m : Fin 4 → Bool) (r : List DecodeRecord) : (s.streamRecords m r).time = s.time := by
  unfold State.streamRecords State.withNotices; dsimp only; split <;> rfl
@[simp] theorem State.streamRecords_pfe (s : State) (m : Fin 4 → Bool) (r : List DecodeRecord) : (s.streamRecords m r).pfe = s.pfe := by
  unfold State.streamRecords State.withNotices; dsimp only; split <;> rfl
@[simp] theorem State.streamRecords_sampler (s : State) (m : Fin 4 → Bool) (r : List DecodeRecord) : (s.streamRecords m r).sampler = s.sampler := by
  unfold State.streamRecords State.withNotices; dsimp only; split <;> rfl
@[simp] theorem State.streamRecords_store (s : State) (m : Fin 4 → Bool) (r : List DecodeRecord) : (s.streamRecords m r).store = s.store := by
  unfold State.streamRecords State.withNotices; dsimp only; split <;> rfl
@[simp] theorem State.streamRecords_readout (s : State) (m : Fin 4 → Bool) (r : List DecodeRecord) : (s.streamRecords m r).readout = s.readout := by
  unfold State.streamRecords State.withNotices; dsimp only; split <;> rfl
@[simp] theorem State.streamRecords_capture (s : State) (m : Fin 4 → Bool) (r : List DecodeRecord) : (s.streamRecords m r).capture = s.capture := by
  unfold State.streamRecords State.withNotices; dsimp only; split <;> rfl
@[simp] theorem State.streamRecords_counters (s : State) (m : Fin 4 → Bool) (r : List DecodeRecord) : (s.streamRecords m r).counters = s.counters := by
  unfold State.streamRecords State.withNotices; dsimp only; split <;> rfl
@[simp] theorem State.streamRecords_seq (s : State) (m : Fin 4 → Bool) (r : List DecodeRecord) : (s.streamRecords m r).seq = s.seq := by
  unfold State.streamRecords State.withNotices; dsimp only; split <;> rfl
@[simp] theorem State.streamRecords_decoders (s : State) (m : Fin 4 → Bool) (r : List DecodeRecord) : (s.streamRecords m r).decoders = s.decoders := by
  unfold State.streamRecords State.withNotices; dsimp only; split <;> rfl
@[simp] theorem State.streamRecords_columns (s : State) (m : Fin 4 → Bool) (r : List DecodeRecord) : (s.streamRecords m r).columns = s.columns := by
  unfold State.streamRecords State.withNotices; dsimp only; split <;> rfl
@[simp] theorem State.streamRecords_link (s : State) (m : Fin 4 → Bool) (r : List DecodeRecord) : (s.streamRecords m r).link = s.link := by
  unfold State.streamRecords State.withNotices; dsimp only; split <;> rfl
@[simp] theorem State.streamRecords_resetHeld (s : State) (m : Fin 4 → Bool) (r : List DecodeRecord) : (s.streamRecords m r).resetHeld = s.resetHeld := by
  unfold State.streamRecords State.withNotices; dsimp only; split <;> rfl
@[simp] theorem State.streamRecords_freeDraws (s : State) (m : Fin 4 → Bool) (r : List DecodeRecord) : (s.streamRecords m r).freeDraws = s.freeDraws := by
  unfold State.streamRecords State.withNotices; dsimp only; split <;> rfl
@[simp] theorem State.streamRecords_pending (s : State) (m : Fin 4 → Bool) (r : List DecodeRecord) : (s.streamRecords m r).pending = s.pending := by
  unfold State.streamRecords State.withNotices; dsimp only; split <;> rfl

theorem State.streamRecords_streamer (s : State) (m : Fin 4 → Bool) (r : List DecodeRecord) :
    (s.streamRecords m r).streamer = (Streamer.receiveAll m s.time.elapsed r s.streamer).1 := by
  unfold State.streamRecords State.withNotices
  dsimp only
  split <;> rfl

theorem State.streamRecords_orders (s : State) (m : Fin 4 → Bool) (r : List DecodeRecord) :
    (s.streamRecords m r).orders = { s.orders with notices := (s.streamRecords m r).orders.notices } := by
  unfold State.streamRecords State.withNotices
  dsimp only
  split <;> rfl

/-- Records that join keep the queue within its 64 places (R123, R124). -/
theorem Streamer.receive_bound (q : Streamer) (b : Bool) (now : Nat) (r : DecodeRecord) (h : q.queue.length ≤ 64) :
    (q.receive b now r).queue.length ≤ 64 := by
  unfold Streamer.receive Streamer.joinOutcome Streamer.join Streamer.lose
  simp only [Config.queueCapacity]
  split
  · exact h
  · rename_i hj
    split at hj
    · cases hj
    · split at hj
      · simp only [List.length_append, List.length_singleton]; omega
      · cases hj
  · exact h

theorem Streamer.receiveAll_bound (m : Fin 4 → Bool) (now : Nat) :
    ∀ (rs : List DecodeRecord) (q : Streamer), q.queue.length ≤ 64 →
      (Streamer.receiveAll m now rs q).1.queue.length ≤ 64
  | [], _, h => h
  | r :: rs, q, h => by
    unfold Streamer.receiveAll
    exact Streamer.receiveAll_bound m now rs _ (Streamer.receive_bound q _ now r h)

@[simp] theorem State.branchActions_time (s : State) (n : Nat) (b : Option Taken) : (s.branchActions n b).time = s.time := by
  unfold State.branchActions; split <;> rfl
@[simp] theorem State.branchActions_pfe (s : State) (n : Nat) (b : Option Taken) : (s.branchActions n b).pfe = s.pfe := by
  unfold State.branchActions; split <;> rfl
@[simp] theorem State.branchActions_sampler (s : State) (n : Nat) (b : Option Taken) : (s.branchActions n b).sampler = s.sampler := by
  unfold State.branchActions; split <;> rfl
@[simp] theorem State.branchActions_store (s : State) (n : Nat) (b : Option Taken) : (s.branchActions n b).store = s.store := by
  unfold State.branchActions; split <;> rfl
@[simp] theorem State.branchActions_readout (s : State) (n : Nat) (b : Option Taken) : (s.branchActions n b).readout = s.readout := by
  unfold State.branchActions; split <;> rfl
@[simp] theorem State.branchActions_capture (s : State) (n : Nat) (b : Option Taken) : (s.branchActions n b).capture = s.capture := by
  unfold State.branchActions; split <;> rfl
@[simp] theorem State.branchActions_seq (s : State) (n : Nat) (b : Option Taken) : (s.branchActions n b).seq = s.seq := by
  unfold State.branchActions; split <;> rfl
@[simp] theorem State.branchActions_decoders (s : State) (n : Nat) (b : Option Taken) : (s.branchActions n b).decoders = s.decoders := by
  unfold State.branchActions; split <;> rfl
@[simp] theorem State.branchActions_streamer (s : State) (n : Nat) (b : Option Taken) : (s.branchActions n b).streamer = s.streamer := by
  unfold State.branchActions; split <;> rfl
@[simp] theorem State.branchActions_columns (s : State) (n : Nat) (b : Option Taken) : (s.branchActions n b).columns = s.columns := by
  unfold State.branchActions; split <;> rfl
@[simp] theorem State.branchActions_orders (s : State) (n : Nat) (b : Option Taken) : (s.branchActions n b).orders = s.orders := by
  unfold State.branchActions; split <;> rfl
@[simp] theorem State.branchActions_resetHeld (s : State) (n : Nat) (b : Option Taken) : (s.branchActions n b).resetHeld = s.resetHeld := by
  unfold State.branchActions; split <;> rfl
@[simp] theorem State.branchActions_freeDraws (s : State) (n : Nat) (b : Option Taken) : (s.branchActions n b).freeDraws = s.freeDraws := by
  unfold State.branchActions; split <;> rfl
@[simp] theorem State.branchActions_pending (s : State) (n : Nat) (b : Option Taken) : (s.branchActions n b).pending = s.pending := by
  unfold State.branchActions; split <;> rfl

/-- A branch's raises touch the pending part of the pending-signal set and its latest raise alone (R163). -/
theorem State.branchActions_link (s : State) (n : Nat) (b : Option Taken) :
    (s.branchActions n b).link = { s.link with
      pendingPart := (s.branchActions n b).link.pendingPart, newRaise := (s.branchActions n b).link.newRaise } := by
  unfold State.branchActions
  split
  · rfl
  · simp only [State.withCounters_link, State.withLink_link, LinkController.raiseFlags]
    split <;> rfl

/-- The pending part after a branch's raises (R163). -/
theorem State.branchActions_pendingPart (s : State) (n : Nat) (b : Option Taken) :
    (s.branchActions n b).link.pendingPart =
      match b with
      | none => s.link.pendingPart
      | some t => if t.branch.raises = 0 then s.link.pendingPart else s.link.pendingPart.join t.branch.raises n := by
  unfold State.branchActions
  split
  · rfl
  · simp only [State.withCounters_link, State.withLink_link, LinkController.raiseFlags]
    split <;> rfl

/-- The raise of an instant is found at that instant. -/
theorem LinkController.raiseAt_some (l : LinkController) (r : NewRaise) (now : Nat) (h : l.newRaise = some r)
    (ht : r.time = now) : l.raiseAt now = some r := by
  simp [LinkController.raiseAt, h, ht]

/-- What a SIGNAL post starting at the instant of a raise carries is what it carried before the raise (R186). -/
theorem LinkController.raiseFlags_carriedPart (l : LinkController) (flags : FlagSet) (tick now : Nat) :
    (l.raiseFlags flags tick now).carriedPart now = l.carriedPart now := by
  by_cases hf : flags = 0
  · simp [LinkController.raiseFlags, hf]
  · unfold LinkController.carriedPart
    cases h : l.raiseAt now with
    | none =>
      rw [LinkController.raiseAt_some (l.raiseFlags flags tick now)
        ⟨now, l.pendingPart, SignalPart.empty.join flags tick⟩ now
        (by simp only [LinkController.raiseFlags, if_neg hf, h]) rfl]
    | some r =>
      have hr : r.time = now := by
        simp only [LinkController.raiseAt, Option.filter_eq_some_iff, beq_iff_eq] at h
        exact h.2
      rw [LinkController.raiseAt_some (l.raiseFlags flags tick now)
        { r with raised := r.raised.join flags tick } now
        (by simp only [LinkController.raiseFlags, if_neg hf, h]) hr]

theorem State.branchActions_carriedPart (s : State) (n : Nat) (b : Option Taken) (now : Nat) (h : s.time.elapsed = now) :
    (s.branchActions n b).link.carriedPart now = s.link.carriedPart now := by
  subst h
  unfold State.branchActions
  split
  · rfl
  · exact LinkController.raiseFlags_carriedPart _ _ _ _

@[simp] theorem State.settleDepth_time (s : State) (b : Bool) : (s.settleDepth b).time = s.time := by
  unfold State.settleDepth; repeat' split
  all_goals simp
@[simp] theorem State.settleDepth_pfe (s : State) (b : Bool) : (s.settleDepth b).pfe = s.pfe := by
  unfold State.settleDepth; repeat' split
  all_goals simp
@[simp] theorem State.settleDepth_seq (s : State) (b : Bool) : (s.settleDepth b).seq = s.seq := by
  unfold State.settleDepth; repeat' split
  all_goals simp
@[simp] theorem State.settleDepth_streamer (s : State) (b : Bool) : (s.settleDepth b).streamer = s.streamer := by
  unfold State.settleDepth; repeat' split
  all_goals simp
@[simp] theorem State.settleDepth_link (s : State) (b : Bool) : (s.settleDepth b).link = s.link := by
  unfold State.settleDepth; repeat' split
  all_goals simp
@[simp] theorem State.settleDepth_resetHeld (s : State) (b : Bool) : (s.settleDepth b).resetHeld = s.resetHeld := by
  unfold State.settleDepth; repeat' split
  all_goals simp
@[simp] theorem State.settleDepth_freeDraws (s : State) (b : Bool) : (s.settleDepth b).freeDraws = s.freeDraws := by
  unfold State.settleDepth; repeat' split
  all_goals simp
@[simp] theorem State.settleDepth_pending (s : State) (b : Bool) : (s.settleDepth b).pending = s.pending := by
  unfold State.settleDepth; repeat' split
  all_goals simp

@[simp] theorem State.takeSample_time (s : State) (a : Bool) : (s.takeSample a).time = s.time := by
  simp [State.takeSample]
@[simp] theorem State.takeSample_pfe (s : State) (a : Bool) : (s.takeSample a).pfe = s.pfe := by
  simp [State.takeSample]
@[simp] theorem State.takeSample_resetHeld (s : State) (a : Bool) : (s.takeSample a).resetHeld = s.resetHeld := by
  simp [State.takeSample]
@[simp] theorem State.takeSample_freeDraws (s : State) (a : Bool) : (s.takeSample a).freeDraws = s.freeDraws := by
  simp [State.takeSample]
@[simp] theorem State.takeSample_pending (s : State) (a : Bool) : (s.takeSample a).pending = s.pending := by
  simp [State.takeSample]

end Sys2Proof.Machine
end

