-- ==== Sys2Proof/Laws/Columns.lean ====
section
/-! SUPPORT. What the Column Engine's operations change, and that each keeps the outgoing list within its phase (R136, R147). -/

namespace Sys2Proof.Machine

/-! ## Frames -/

/-- Composing a post changes the engine alone. -/
theorem State.composeColumns_frame (s : State) (r : Reduction) :
    s.composeColumns r = { s with columns := (s.composeColumns r).columns } := rfl

/-- A pass that begins changes the engine alone. -/
theorem State.beginPass_frame (s : State) (r : Reduction) :
    s.beginPass r = { s with columns := (s.beginPass r).columns } := rfl

/-- A reduction that begins changes the engine alone. -/
theorem State.beginReduction_frame (s : State) (w : Station) (p : ReduceParams) :
    s.beginReduction w p = { s with columns := (s.beginReduction w p).columns } := by
  unfold State.beginReduction
  dsimp only
  split <;> rfl

/-- A COLUMNS post sent in full changes the engine alone. -/
theorem State.columnsSent_frame (s : State) : s.columnsSent = { s with columns := s.columnsSent.columns } := by
  unfold State.columnsSent State.ownPostSent State.startIfClear
  repeat' split
  all_goals first | rfl | (dsimp only; repeat' split) <;> rfl

/-- A reduction that ends changes the engine, and the count of free values drawn. -/
theorem State.endReduction_frame (s : State) (w : EndReason) :
    s.endReduction w =
      { s with columns := (s.endReduction w).columns, freeDraws := (s.endReduction w).freeDraws } := by
  unfold State.endReduction State.drawForWindow
  repeat' split
  all_goals rfl

/-! ## The outgoing list -/

/-- The engine of a pass whose post was just composed on an empty list. -/
theorem State.composeColumns_fits (s : State) (r : Reduction) (h : s.columns.outgoing = []) :
    (s.composeColumns r).columns.listFits := by
  unfold State.composeColumns
  simp only [State.withColumns_columns, ColumnEngine.listFits, h, List.nil_append]
  by_cases hl : (s.nextPost r).last.isSome
  · rw [if_pos hl]
    exact Or.inl ⟨_, rfl, rfl, hl⟩
  · rw [if_neg hl]
    refine ⟨_, rfl, rfl, ?_⟩
    cases hp : (s.nextPost r).last with
    | none => rfl
    | some w => simp [hp] at hl

/-- A pass that begins on an empty list. -/
theorem State.beginPass_fits (s : State) (r : Reduction) (h : s.columns.outgoing = []) :
    (s.beginPass r).columns.listFits :=
  State.composeColumns_fits _ r h

/-- An announced overwrite keeps the list within its phase (R146). -/
theorem ColumnEngine.overwrite_fits (e : ColumnEngine) (q : Nat) (h : e.listFits) : (e.overwrite q).listFits := by
  unfold ColumnEngine.overwrite
  split
  · exact h
  · rename_i r hr
    split
    · rename_i hp
      unfold ColumnEngine.listFits at h
      rw [hr] at h
      simp only [hp.1] at h
      obtain ⟨p, h1, h2, h3⟩ := h
      unfold ColumnEngine.listFits
      simp only [h1]
      exact Or.inr ⟨p, _, rfl, h2, rfl, h3, rfl⟩
    · exact h

/-- The posts left of a reduction belong to none that is current. -/
theorem ColumnEngine.disowned_none (e : ColumnEngine) : ∀ p ∈ e.disowned, p.ofCurrent = false := by
  intro p hp
  unfold ColumnEngine.disowned at hp
  obtain ⟨q, _, rfl⟩ := List.mem_map.mp hp
  rfl

theorem ColumnEngine.disowned_length (e : ColumnEngine) : e.disowned.length = e.outgoing.length := by
  simp [ColumnEngine.disowned]

/-- The end of a reduction leaves at most three posts, none of a current one (R136, R147, R148). -/
theorem State.endReduction_fits (s : State) (w : EndReason) (h : s.columns.listFits) :
    (s.endReduction w).columns.outgoing.length ≤ 3
      ∧ ∀ p ∈ (s.endReduction w).columns.outgoing, p.ofCurrent = false := by
  have hd := s.columns.disowned_none
  have hl := s.columns.disowned_length
  have happ : ∀ q : ColumnsPost, q.ofCurrent = false →
      ∀ p ∈ s.columns.disowned ++ [q], p.ofCurrent = false := by
    intro q hq p hp
    rcases List.mem_append.mp hp with h1 | h1
    · exact hd p h1
    · simp only [List.mem_singleton] at h1; rw [h1]; exact hq
  unfold State.endReduction
  split
  · rename_i hc
    unfold ColumnEngine.listFits at h
    rw [hc] at h
    exact h
  · rename_i r hc
    unfold ColumnEngine.listFits at h
    rw [hc] at h
    dsimp only at h
    split <;> rename_i hp <;> rw [hp] at h <;> dsimp only at h
    · simp only [State.withColumns_columns]
      exact ⟨by omega, hd⟩
    · obtain ⟨p, h1, _, _⟩ := h
      simp only [State.withColumns_columns]
      exact ⟨by simp [hl, h1], happ _ rfl⟩
    · split
      · simp only [State.withColumns_columns]
        refine ⟨?_, happ _ rfl⟩
        rcases h with ⟨p, h1, _⟩ | ⟨p, q, h1, _⟩ <;> simp [hl, h1]
      · simp only [State.withColumns_columns]
        refine ⟨?_, hd⟩
        rcases h with ⟨p, h1, _⟩ | ⟨p, q, h1, _⟩ <;> simp [hl, h1]
    · simp only [State.withColumns_columns]
      exact ⟨by simp [hl, h], happ _ rfl⟩

theorem State.endReduction_listFits (s : State) (w : EndReason) (h : s.columns.listFits) :
    (s.endReduction w).columns.listFits := by
  unfold ColumnEngine.listFits
  rw [State.endReduction_current]
  exact State.endReduction_fits s w h

/-- A new reduction keeps the list within its phase (R138). -/
theorem State.beginReduction_fits (s : State) (w : Station) (p : ReduceParams)
    (h : s.columns.outgoing.length ≤ 3 ∧ ∀ q ∈ s.columns.outgoing, q.ofCurrent = false) :
    (s.beginReduction w p).columns.listFits := by
  unfold State.beginReduction
  dsimp only
  split
  · rename_i h0
    exact State.beginPass_fits _ _ h0
  · exact h

/-- A COLUMNS post sent in full keeps the list within its phase (R145, R151). -/
theorem State.columnsSent_fits (s : State) (h : s.columns.listFits) : s.columnsSent.columns.listFits := by
  unfold State.columnsSent
  split
  · exact h
  · rename_i post rest hout
    dsimp only
    split
    · rename_i hc
      unfold ColumnEngine.listFits at h ⊢
      rw [hc] at h
      simp only [State.withColumns_columns, hc]
      rw [hout] at h
      exact ⟨by have := h.1; simp at this; omega, fun q hq => h.2 q (List.mem_cons_of_mem _ hq)⟩
    · rename_i r hc
      unfold ColumnEngine.listFits at h
      rw [hc] at h
      dsimp only at h
      split
      · rename_i hown
        unfold State.ownPostSent
        cases hph : r.phase with
        | starting =>
          rw [hph] at h
          have := h.2 post (by rw [hout]; exact List.mem_cons_self ..)
          rw [this] at hown; cases hown
        | waiting e =>
          rw [hph] at h
          dsimp only at h
          rw [hout] at h; cases h
        | passing =>
          rw [hph] at h
          obtain ⟨p, h1, h2, h3⟩ := h
          rw [hout] at h1
          cases h1
          rw [h3]
          simp only [if_true]
          exact State.composeColumns_fits _ _ rfl
        | closing =>
          rw [hph] at h
          rcases h with ⟨p, h1, h2, h3⟩ | ⟨p, q, h1, h2, h3, h4, h5⟩
          · rw [hout] at h1
            cases h1
            cases hw : post.last with
            | none => rw [hw] at h3; cases h3
            | some w =>
              dsimp only
              split
              · simp [ColumnEngine.listFits]
              · simp [ColumnEngine.listFits]
          · rw [hout] at h1
            cases h1
            rw [h4]
            unfold ColumnEngine.listFits
            simp only [reduceCtorEq, if_false, State.withColumns_columns, hc, hph]
            exact Or.inl ⟨q, rfl, h3, h5⟩
      · rename_i hown
        unfold State.startIfClear
        simp only [State.withColumns_columns, hc]
        split
        · rename_i hs
          exact State.beginPass_fits _ _ hs.2
        · rename_i hs
          unfold ColumnEngine.listFits
          simp only [State.withColumns_columns]
          cases hph : r.phase with
          | starting =>
            rw [hph] at h
            rw [hout] at h
            exact ⟨by have := h.1; simp at this; omega, fun q hq => h.2 q (List.mem_cons_of_mem _ hq)⟩
          | waiting e =>
            rw [hph] at h
            dsimp only at h
            rw [hout] at h; cases h
          | passing =>
            rw [hph] at h
            obtain ⟨p, h1, h2, h3⟩ := h
            rw [hout] at h1
            cases h1
            exact absurd h2 hown
          | closing =>
            rw [hph] at h
            rcases h with ⟨p, h1, h2, h3⟩ | ⟨p, q, h1, h2, h3, h4, h5⟩ <;>
            · rw [hout] at h1
              cases h1
              exact absurd h2 hown

/-- A repeat pass keeps the list within its phase: nothing else is outgoing (R151). -/
theorem State.repeatPass_fits (s : State) (r : Reduction) (h : s.columns.outgoing = []) :
    (s.repeatPass r).columns.listFits :=
  State.beginPass_fits _ _ h

/-! ## Placing records -/

theorem State.announceToReadout_columns (s : State) (q : Nat) : (s.announceToReadout q).columns = s.columns := by
  unfold State.announceToReadout
  split <;> (try split) <;> rfl

theorem State.place_fits {s t : State} {r : Record} (hp : s.place r = some t) (h : s.columns.listFits) :
    t.columns.listFits := by
  unfold State.place at hp
  split at hp
  · cases hp; exact h
  · split at hp
    · cases hp
      unfold State.announce
      rw [State.announceToReadout_columns]
      exact ColumnEngine.overwrite_fits _ _ h
    · cases hp

theorem State.closeLastRun_fits (s : State) (w : Reason) (h : s.columns.listFits) :
    (s.closeLastRun w).1.columns.listFits := by
  unfold State.closeLastRun
  repeat' split
  all_goals first | exact h | exact State.place_fits (by assumption) h

/-- A capture end keeps the outgoing list within its phase. -/
theorem State.endCapture_fits (s : State) (w : Reason) (h : s.columns.listFits) :
    (s.endCapture w).columns.listFits := by
  rw [State.endCapture_columns]
  exact State.closeLastRun_fits s w h

theorem State.enterTriggered_fits (s : State) (t : Nat) (c : Cause) (h : s.columns.listFits) :
    (s.enterTriggered t c).columns.listFits := by
  unfold State.enterTriggered
  simp only [State.withNotices, State.withOrders_columns, State.withCapture_columns]
  cases hp : State.place _ _ with
  | none => exact h
  | some u => exact State.place_fits hp h

/-- A sample keeps the outgoing list within its phase. -/
theorem State.takeSample_fits (s : State) (a : Bool) (h : s.columns.listFits) :
    (s.takeSample a).columns.listFits := by
  have hs : ∀ (u : State) (b : Bool), u.columns.listFits → (u.settleDepth b).columns.listFits := by
    intro u b hu
    unfold State.settleDepth
    repeat' split
    · exact State.endCapture_fits u _ hu
    · exact State.endCapture_fits u _ hu
    · exact hu
  have hw : ∀ (u : State) (x : Sample) (run : Option Run) (copies : List Record) (c : Option Cause) (b : Option Taken),
      u.columns.listFits → (u.writeSample x a run copies c b).1.columns.listFits := fun u x run copies c b hu =>
    State.writeSample_keeps (p := fun t => t.columns.listFits)
      (fun _ _ _ hp k => State.place_fits hp k) (fun _ k => k) (fun _ _ _ k => State.enterTriggered_fits _ _ _ k)
      u x a run copies c b hu
  unfold State.takeSample
  dsimp only
  apply hs
  simp only [State.branchActions_columns, State.streamRecords_columns, State.withStore_columns]
  apply hw
  simpa using h

/-- An ARM keeps the outgoing list within its phase (R150). -/
theorem State.armEffects_fits (s : State) (h : s.columns.listFits) : s.armEffects.columns.listFits := by
  have h1 := State.endReduction_listFits s.armReadout .discarded (by simpa using h)
  have h2 : s.armEffects.columns = { (s.armReadout.endReduction .discarded).columns with nextColumn := 0 } := by
    simp [State.armEffects, State.discardQueue_eq]
  rw [h2]
  unfold ColumnEngine.listFits at h1 ⊢
  simpa using h1

end Sys2Proof.Machine
end

