-- ==== Sys2Proof/Laws/Reads.lean ====
section
/-! SUPPORT. What a sample reads, what the four decoder slots make of it, and how their records meet the Streamer. -/

namespace Sys2Proof.Machine

/-! ## The levels and the sample -/

/-- The levels at the instant of the present tick (R1). -/
theorem State.levelsNow_eq (s : State) : s.levelsNow = s.tickLevels := by
  unfold State.levelsNow State.readingNow State.tickLevels State.tick
  cases h : s.sampler.levelsRead with
  | none => rfl
  | some r =>
    by_cases e : r.tick = s.time.tick
    · simp [Option.filter, e, Config.tickMax]
    · simp [Option.filter, e]

/-- What the sample read now holds (R1, R2, R7, R9). -/
theorem State.readSample_reads (s : State) : s.SampleReads where
  tick := rfl
  index := rfl
  value := s.levelsNow_eq
  levels ch := by
    have h := Pfe.level_eq s.pfe ch
    unfold Pfe.level hasChannel at h
    rw [h, Bool.and_comm]
    rfl
  rises ch := by
    rw [← s.levelsNow_eq]
    simp only [State.readSample, BitVec.getLsbD_and, BitVec.getLsbD_not, Bool.and_eq_true, Bool.not_eq_true']
    cases h : s.sampler.prevValue with
    | none => simp
    | some p => simp [and_comm]
  falls ch := by
    rw [← s.levelsNow_eq]
    simp only [State.readSample, BitVec.getLsbD_and, BitVec.getLsbD_not, Bool.and_eq_true, Bool.not_eq_true']
    cases h : s.sampler.prevValue with
    | none => simp
    | some p => simp
  glitches ch := by
    rw [← s.levelsNow_eq]
    simp only [State.readSample, Sampler.glitchMask]
    cases h : s.sampler.prevValue with
    | none => simp
    | some p =>
      dsimp only
      split
      · rename_i g
        simp only [g.1, g.2, true_and, Option.some.injEq, exists_eq_left', BitVec.getLsbD_and, BitVec.getLsbD_not,
          BitVec.getLsbD_xor, Bool.and_eq_true, ch.isLt, decide_true, Bool.true_and]
        cases p.getLsbD ch.val <;> cases s.levelsNow.getLsbD ch.val <;> simp
      · rename_i g
        constructor
        · intro k
          exact absurd k (by simp)
        · exact fun k => absurd ⟨k.1, k.2.1⟩ g

/-! ## The decoder slots -/

/-- A slot that is STOPPED does nothing (R100). -/
theorem Slot.handles_stopped (slot : Fin 4) (x : Sample) (d : Slot) (h : d.phase = .stopped) :
    d.handles slot x = (d, none) := by
  unfold Slot.handles
  cases d.kind <;> simp [AsyncSettings.step, ClockedSettings.step, StrobedSettings.step, h]

/-- How the bank handles a sample (R100, R101). -/
theorem DecoderBank.handlesWell (b : DecoderBank) (x : Sample) : b.HandlesWell x where
  slots d := by
    simp only [DecoderBank.handleSample, DecoderBank.steps, Quad.get_map, Quad.get_mapIdx]
    rfl
  copySet := rfl
  completed := by
    simp only [DecoderBank.completed, DecoderBank.steps, Quad.mapIdx, Quad.toList, List.filterMap_cons, List.filterMap_nil]
    rfl
  stopped d h := Slot.handles_stopped d x _ h

/-! ## The Streamer -/

/-- How one record meets the Streamer (R124, R125). -/
theorem Streamer.receive_meets (st : Streamer) (streams : Bool) (now : Nat) (r : DecodeRecord) :
    st.meets streams now r (st.receive streams now r) (st.joinOutcome streams == .lost) := by
  unfold Streamer.meets Streamer.receive Streamer.joinOutcome
  cases streams <;> cases h : st.on <;> simp
  by_cases g : st.queue.length < 64
  · simp [g, h, Streamer.join]
  · simp [g, h, Streamer.lose, addLoss, Streamer.lostAt, Nat.le_of_not_lt g]

/-- How the records of a sample meet the Streamer (R101, R123). -/
theorem Streamer.receiveAll_meets (streams : Fin 4 → Bool) (now : Nat) :
    ∀ (records : List DecodeRecord) (st : Streamer),
      Streamer.meetsAll streams now records st (Streamer.receiveAll streams now records st)
  | [], _ => rfl
  | r :: rest, st =>
    ⟨_, _, _, st.receive_meets (streams r.slot) now r, Streamer.receiveAll_meets streams now rest _, rfl⟩

end Sys2Proof.Machine
end

