-- ==== Sys2Proof/Laws/Sample.lean ====
section
/-! SUPPORT. What a sample does to each block, said once for every kind of sample. -/

namespace Sys2Proof.Machine

/-! ## The writes of a sample -/

/-- A relation to the sampler before that the miss mark keeps is kept by the writes of a sample. -/
theorem State.writeSample_sampler (s : State) (x : Sample) (a : Bool) (run : Option Run) (copies : List Record)
    (c : Option Cause) (b : Option Taken) :
    (s.writeSample x a run copies c b).1.sampler = s.sampler
      ∨ (s.writeSample x a run copies c b).1.sampler = s.sampler.missesWritten := by
  unfold State.writeSample
  rw [placeNext_sampler]
  have h2 : (placeOverrun (State.placeList (run.toList.map .run) s) x.tick a).1.sampler = s.sampler
      ∨ (placeOverrun (State.placeList (run.toList.map .run) s) x.tick a).1.sampler = s.sampler.missesWritten := by
    unfold placeOverrun
    split
    · dsimp only
      split <;> simp
    · simp
  cases c with
  | none => simpa using h2
  | some k => simpa using h2

/-- Capture Control after the writes of a sample: moved by a trigger alone (R45). -/
theorem State.writeSample_capture (s : State) (x : Sample) (a : Bool) (run : Option Run) (copies : List Record)
    (c : Option Cause) (b : Option Taken) :
    (s.writeSample x a run copies c b).1.capture = if c.isSome then s.capture.trigger else s.capture := by
  unfold State.writeSample
  rw [placeNext_capture]
  have h2 : (placeOverrun (State.placeList (run.toList.map .run) s) x.tick a).1.capture = s.capture := by
    unfold placeOverrun
    split
    · dsimp only
      split <;> simp
    · simp
  cases c with
  | none => simpa using h2
  | some k => simp [State.enterTriggered_capture, h2]

/-- The writes of a sample keep the store's bounds (R20). -/
theorem State.writeSample_bounds (s : State) (x : Sample) (a : Bool) (run : Option Run) (copies : List Record)
    (c : Option Cause) (b : Option Taken)
    (h : s.store.records.length ≤ 65536 ∧ s.store.records.length ≤ s.store.nextSeq) :
    (s.writeSample x a run copies c b).1.store.records.length ≤ 65536
      ∧ (s.writeSample x a run copies c b).1.store.records.length ≤ (s.writeSample x a run copies c b).1.store.nextSeq :=
  State.writeSample_keeps
    (p := fun t => t.store.records.length ≤ 65536 ∧ t.store.records.length ≤ t.store.nextSeq)
    (fun _ _ _ hp k => State.place_bounds hp k.1 k.2) (fun _ k => k)
    (fun _ _ _ k => State.enterTriggered_bounds _ _ _ k.1 k.2) s x a run copies c b h

/-- The Order Unit after the writes of a sample: its notices alone can have changed. -/
theorem State.writeSample_orders (s : State) (x : Sample) (a : Bool) (run : Option Run) (copies : List Record)
    (c : Option Cause) (b : Option Taken) :
    (s.writeSample x a run copies c b).1.orders =
      { s.orders with notices := (s.writeSample x a run copies c b).1.orders.notices } :=
  State.writeSample_keeps (p := fun t => t.orders = { s.orders with notices := t.orders.notices })
    (fun _ _ _ hp k => by rw [State.place_orders hp]; exact k) (fun _ k => k)
    (fun _ _ _ k => by rw [State.enterTriggered_orders]; dsimp only; rw [k]) s x a run copies c b rfl

/-! ## The end that a sample can bring -/

/-- The Sampler after a sample is settled: stopped when the capture ended. -/
theorem State.settleDepth_sampler (s : State) (b : Bool) :
    (s.settleDepth b).sampler = s.sampler ∨ (s.settleDepth b).sampler = s.sampler.stop := by
  unfold State.settleDepth
  repeat' split
  all_goals simp

/-- Capture Control after a sample is settled. -/
theorem State.settleDepth_capture (s : State) (b : Bool) :
    (s.settleDepth b).capture = s.capture ∨ ∃ w, (s.settleDepth b).capture = s.capture.finish w := by
  unfold State.settleDepth
  repeat' split
  · exact Or.inr ⟨_, State.endCapture_capture _ _⟩
  · exact Or.inr ⟨_, State.endCapture_capture _ _⟩
  · exact Or.inl rfl

theorem State.settleDepth_orders (s : State) (b : Bool) :
    (s.settleDepth b).orders = { s.orders with notices := (s.settleDepth b).orders.notices } := by
  unfold State.settleDepth
  repeat' split
  all_goals simp

theorem State.settleDepth_bounds (s : State) (b : Bool)
    (h : s.store.records.length ≤ 65536 ∧ s.store.records.length ≤ s.store.nextSeq) :
    (s.settleDepth b).store.records.length ≤ 65536
      ∧ (s.settleDepth b).store.records.length ≤ (s.settleDepth b).store.nextSeq := by
  unfold State.settleDepth
  repeat' split
  · rw [State.endCapture_store]; exact State.closeLastRun_bounds _ _ h.1 h.2
  · rw [State.endCapture_store]; exact State.closeLastRun_bounds _ _ h.1 h.2
  · exact h

theorem State.settleDepth_placement (s : State) (b : Bool) (h : s.store.placement = []) :
    (s.settleDepth b).store.placement = [] := by
  unfold State.settleDepth
  repeat' split
  all_goals simp [h]

/-! ## A whole sample -/

/-- The sequencer evaluates every sample once (R83). -/
@[simp] theorem State.takeSample_seq (s : State) (a : Bool) :
    (s.takeSample a).seq =
      (s.seq.evaluate ⟨s.readSample, s.decoders.completed s.readSample, (s.counters.handleSample s.readSample).events,
        s.store.placedFlags⟩).1 := by
  simp [State.takeSample]

/-- The records a sample completes reach the Streamer (R101). -/
@[simp] theorem State.takeSample_streamer (s : State) (a : Bool) :
    (s.takeSample a).streamer =
      (Streamer.receiveAll (fun i => (s.decoders.slots.get i).stream) s.time.elapsed
        (s.decoders.completed s.readSample) s.streamer).1 := by
  simp [State.takeSample, State.streamRecords_streamer]

/-- A sample changes the pending part of the pending-signal set, its latest raise, and nothing else of the link. -/
theorem State.takeSample_link (s : State) (a : Bool) :
    (s.takeSample a).link = { s.link with
      pendingPart := (s.takeSample a).link.pendingPart, newRaise := (s.takeSample a).link.newRaise } := by
  simp only [State.takeSample, State.settleDepth_link]
  refine (State.branchActions_link _ _ _).trans ?_
  simp

/-- The pending part after a sample: the raises of a taken branch joined to it (R91, R163). -/
theorem State.takeSample_pendingPart (s : State) (a : Bool) :
    (s.takeSample a).link.pendingPart =
      match (s.seq.evaluate ⟨s.readSample, s.decoders.completed s.readSample,
        (s.counters.handleSample s.readSample).events, s.store.placedFlags⟩).2 with
      | none => s.link.pendingPart
      | some t => if t.branch.raises = 0 then s.link.pendingPart else s.link.pendingPart.join t.branch.raises s.time.tick := by
  simp only [State.takeSample, State.settleDepth_link]
  refine (State.branchActions_pendingPart _ _ _).trans ?_
  simp only [State.streamRecords_link, State.withStore_link, State.writeSample_link, State.withCapture_link,
    State.withSampler_link, State.withSeq_link, State.withDecoders_link, State.withCounters_link]
  rfl

/-- A SIGNAL post that starts at a sample's instant carries nothing that the sample raises (R186). -/
theorem State.takeSample_carriedPart (s : State) (a : Bool) :
    (s.takeSample a).link.carriedPart s.time.elapsed = s.link.carriedPart s.time.elapsed := by
  simp only [State.takeSample, State.settleDepth_link]
  refine (State.branchActions_carriedPart _ _ _ _ ?_).trans ?_ <;> simp

/-- A sample changes the pending notice set and nothing else of the Order Unit. -/
theorem State.takeSample_orders (s : State) (a : Bool) :
    (s.takeSample a).orders = { s.orders with notices := (s.takeSample a).orders.notices } := by
  unfold State.takeSample
  dsimp only
  rw [State.settleDepth_orders]
  simp only [State.branchActions_orders]
  rw [State.streamRecords_orders]
  simp only [State.withStore_orders]
  rw [State.writeSample_orders]
  simp

/-- The signal placement list is empty after a sample (R22). -/
@[simp] theorem State.takeSample_placement (s : State) (a : Bool) : (s.takeSample a).store.placement = [] := by
  unfold State.takeSample
  dsimp only
  exact State.settleDepth_placement _ _ (by simp)

/-- A sample keeps the store's bounds (R20). -/
theorem State.takeSample_bounds (s : State) (a : Bool)
    (h : s.store.records.length ≤ 65536 ∧ s.store.records.length ≤ s.store.nextSeq) :
    (s.takeSample a).store.records.length ≤ 65536
      ∧ (s.takeSample a).store.records.length ≤ (s.takeSample a).store.nextSeq := by
  unfold State.takeSample
  dsimp only
  apply State.settleDepth_bounds
  simp only [State.branchActions_store, State.streamRecords_store, State.withStore_store]
  apply State.writeSample_bounds
  simpa using h

/-- The Sampler after a sample: its index moved on, the value and tick kept, its settings and record as before (R7). -/
theorem State.takeSample_sampler (s : State) (a : Bool) :
    (s.takeSample a).sampler.nextIndex = s.sampler.nextIndex + 1
      ∧ (s.takeSample a).sampler.prevValue = some s.levelsNow
      ∧ (s.takeSample a).sampler.lastSampleTick = some s.time.tick
      ∧ (s.takeSample a).sampler.settings = s.sampler.settings
      ∧ (s.takeSample a).sampler.record = s.sampler.record
      ∧ (s.takeSample a).sampler.lastTaken = s.sampler.lastTaken
      ∧ (s.takeSample a).sampler.missed ≤ s.sampler.missed
      ∧ (s.takeSample a).sampler.movedOnce = 0 ∧ (s.takeSample a).sampler.movedTwice = 0
      ∧ (s.takeSample a).sampler.levelsRead = some ⟨s.time.tick, s.levelsNow⟩ := by
  have hstop : ∀ (p : Sampler → Prop) (u : State) (b : Bool), p u.sampler → p u.sampler.stop →
      p (u.settleDepth b).sampler := by
    intro p u b h1 h2
    rcases State.settleDepth_sampler u b with h | h <;> rw [h] <;> assumption
  have hmiss : ∀ (p : Sampler → Prop) (u : State) (x : Sample) (run : Option Run) (copies : List Record)
      (c : Option Cause) (b : Option Taken), p u.sampler → p u.sampler.missesWritten →
      p (u.writeSample x a run copies c b).1.sampler := by
    intro p u x run copies c b h1 h2
    rcases State.writeSample_sampler u x a run copies c b with h | h <;> rw [h] <;> assumption
  obtain ⟨P, hPd⟩ : ∃ P : Sampler → Prop, P = fun p => p.nextIndex = s.sampler.nextIndex + 1 ∧ p.prevValue = some s.levelsNow
    ∧ p.lastSampleTick = some s.time.tick ∧ p.settings = s.sampler.settings ∧ p.record = s.sampler.record
    ∧ p.lastTaken = s.sampler.lastTaken ∧ p.missed ≤ s.sampler.missed ∧ p.movedOnce = 0 ∧ p.movedTwice = 0
    ∧ p.levelsRead = some ⟨s.time.tick, s.levelsNow⟩ :=
    ⟨_, rfl⟩
  have hP : ∀ p, P p → P p.stop := by subst hPd; exact fun p h => h
  have hQ : ∀ p, P p → P p.missesWritten := by subst hPd; exact fun p h =>
    ⟨h.1, h.2.1, h.2.2.1, h.2.2.2.1, h.2.2.2.2.1, h.2.2.2.2.2.1, Nat.zero_le _, h.2.2.2.2.2.2.2.1,
      h.2.2.2.2.2.2.2.2.1, h.2.2.2.2.2.2.2.2.2⟩
  have h0 : ∀ run, P (s.sampler.afterSample s.readSample run) := by subst hPd; exact fun run =>
    ⟨rfl, rfl, rfl, rfl, rfl, rfl, Nat.le_refl _, rfl, rfl, rfl⟩
  have h1 : ∀ (u : State) (x : Sample) (run : Option Run) (copies : List Record) (c : Option Cause) (b : Option Taken),
      P u.sampler → P (u.writeSample x a run copies c b).1.sampler :=
    fun u x run copies c b h => hmiss P u x run copies c b h (hQ _ h)
  have h2 : ∀ (u : State) (b : Bool), P u.sampler → P (u.settleDepth b).sampler :=
    fun u b h => hstop P u b h (hP _ h)
  have h : P (s.takeSample a).sampler := by
    unfold State.takeSample
    dsimp only
    apply h2
    simp only [State.branchActions_sampler, State.streamRecords_sampler, State.withStore_sampler]
    apply h1
    exact h0 _
  subst hPd
  exact h

/-- A sample leaves the return state, the settings and the wake action of Capture Control; a capture goes on or ends (R40). -/
theorem State.takeSample_capture (s : State) (a : Bool) (h : s.capturing = true) :
    (s.takeSample a).capture.state ≠ .standby ∧ (s.takeSample a).capture.state ≠ .idle
      ∧ (s.takeSample a).capture.returnState = s.capture.returnState
      ∧ (s.takeSample a).capture.postDepth = s.capture.postDepth
      ∧ (s.takeSample a).capture.armLimit = s.capture.armLimit
      ∧ (s.takeSample a).capture.wakeArm = s.capture.wakeArm := by
  have hs : s.capture.state = .armed ∨ s.capture.state = .triggered := by
    simpa [State.capturing, CapState.capturing] using h
  have hq : ∀ (b : Bool), (if b = true then s.capture.countSample.trigger else s.capture.countSample).state ≠ .standby
      ∧ (if b = true then s.capture.countSample.trigger else s.capture.countSample).state ≠ .idle
      ∧ (if b = true then s.capture.countSample.trigger else s.capture.countSample).returnState = s.capture.returnState
      ∧ (if b = true then s.capture.countSample.trigger else s.capture.countSample).postDepth = s.capture.postDepth
      ∧ (if b = true then s.capture.countSample.trigger else s.capture.countSample).armLimit = s.capture.armLimit
      ∧ (if b = true then s.capture.countSample.trigger else s.capture.countSample).wakeArm = s.capture.wakeArm := by
    intro b
    have hc : s.capture.countSample.state = s.capture.state := by
      unfold CaptureControl.countSample; split <;> rfl
    have hr : s.capture.countSample.returnState = s.capture.returnState ∧ s.capture.countSample.postDepth = s.capture.postDepth
        ∧ s.capture.countSample.armLimit = s.capture.armLimit ∧ s.capture.countSample.wakeArm = s.capture.wakeArm := by
      unfold CaptureControl.countSample; split <;> simp
    cases b
    · simp only [Bool.false_eq_true, if_false, hc]
      rcases hs with e | e <;> simp [e, hr]
    · simp [CaptureControl.trigger, hr]
  obtain ⟨P, hPd⟩ : ∃ P : CaptureControl → Prop, P = fun p => p.state ≠ .standby ∧ p.state ≠ .idle
    ∧ p.returnState = s.capture.returnState ∧ p.postDepth = s.capture.postDepth ∧ p.armLimit = s.capture.armLimit
    ∧ p.wakeArm = s.capture.wakeArm := ⟨_, rfl⟩
  have h2 : ∀ (u : State) (b : Bool), P u.capture → P (u.settleDepth b).capture := by
    intro u b h
    rcases State.settleDepth_capture u b with e | ⟨w, e⟩ <;> rw [e]
    · exact h
    · subst hPd
      exact ⟨by simp [CaptureControl.finish], by simp [CaptureControl.finish], h.2.2⟩
  have hq' : ∀ (b : Bool), P (if b = true then s.capture.countSample.trigger else s.capture.countSample) := by
    subst hPd
    exact hq
  have h3 : P (s.takeSample a).capture := by
    unfold State.takeSample
    dsimp only
    apply h2
    simp only [State.branchActions_capture, State.streamRecords_capture, State.withStore_capture,
      State.writeSample_capture, State.withCapture_capture, State.withSeq_capture, State.withDecoders_capture,
      State.withCounters_capture]
    exact hq' _
  subst hPd
  exact h3

end Sys2Proof.Machine
end

