-- ==== Sys2Proof/Laws/Writes.lean ====
section
/-! SUPPORT. What the records of a sample leave in the store: how many were written, which left, and what a refusal means. -/

namespace Sys2Proof.Machine

/-! ## Records written in order -/

theorem Store.wrote_nil (st : Store) : st.wrote st [] := by
  refine ⟨rfl, ?_⟩
  have h : st.records.length + ([] : List Record).length - max 65536 st.records.length = 0 := by
    simp only [List.length_nil]; omega
  rw [h]
  simp

/-- How many records are retained after some were written. -/
theorem Store.wrote_length {st st' : Store} {w : List Record} (h : st.wrote st' w) :
    st'.records.length = min (st.records.length + w.length) (max 65536 st.records.length) := by
  rw [h.2]
  simp only [List.length_drop, List.length_append]
  omega

/-- One more record is written (R20, R23, R25). -/
theorem Store.wrote_place {st : Store} {s t : State} {w : List Record} {r : Record} (h : st.wrote s.store w)
    (hp : s.place r = some t) : st.wrote t.store (w ++ [r]) := by
  have hl := Store.wrote_length h
  unfold State.place at hp
  split at hp
  · rename_i hf
    cases hp
    simp only [Config.storeCapacity] at hf
    have e1 : st.records.length + w.length - max 65536 st.records.length = 0 := by omega
    have e2 : st.records.length + (w ++ [r]).length - max 65536 st.records.length = 0 := by
      simp only [List.length_append, List.length_singleton]; omega
    refine ⟨?_, ?_⟩
    · simp only [State.withStore_store, Store.append, h.1, List.length_append, List.length_singleton]; omega
    · simp only [State.withStore_store, Store.append, h.2, e1, e2, List.drop_zero, List.append_assoc]
  · rename_i hf
    split at hp
    · cases hp
      simp only [Config.storeCapacity] at hf
      rw [State.announce_store]
      refine ⟨?_, ?_⟩
      · simp only [State.withStore_store, Store.append, Store.dropOldest, h.1, List.length_append, List.length_singleton]
        omega
      · have e : st.records.length + (w ++ [r]).length - max 65536 st.records.length
            = (st.records.length + w.length - max 65536 st.records.length) + 1 := by
          simp only [List.length_append, List.length_singleton]; omega
        simp only [State.withStore_store, Store.append, Store.dropOldest]
        rw [e, ← List.append_assoc, List.drop_append_of_le_length (by simp only [List.length_append]; omega),
          ← List.drop_drop, h.2]
    · cases hp

/-- A record finds no place in a store that refuses (R25). -/
theorem State.place_refuses {s : State} {r : Record} (h : s.place r = none) : s.store.refuses := by
  unfold State.place at h
  split at h
  · cases h
  · rename_i hf
    simp only [Config.storeCapacity, Nat.not_lt] at hf
    split at h
    · cases h
    · rename_i hm
      refine ⟨hf, ?_⟩
      unfold Store.mayOverwrite at hm
      cases ht : s.store.trigger with
      | none => simp [ht] at hm
      | some p =>
        refine ⟨p, rfl, ?_⟩
        simp only [ht, Store.preTrigger, Store.oldest, Bool.not_eq_true, decide_eq_false_iff_not] at hm
        omega

/-- The records that were brought so far, those written, and what a refusal among them means (R26). -/
def Wrote (st : Store) (brought : List Record) (p : State × Bool) : Prop :=
  ∃ w, w <+: brought ∧ st.wrote p.1.store w ∧ (p.2 = true → w = brought)
    ∧ (p.2 = false → w ≠ brought ∧ p.1.store.refuses)

theorem Wrote.placeList {st : Store} : ∀ (rs : List Record) (s : State) (w : List Record), st.wrote s.store w →
    ∃ w', w' <+: rs ∧ st.wrote (State.placeList rs s).1.store (w ++ w') ∧ ((State.placeList rs s).2 = true → w' = rs)
      ∧ ((State.placeList rs s).2 = false → w' ≠ rs ∧ (State.placeList rs s).1.store.refuses)
  | [], s, w, h =>
    ⟨[], List.prefix_rfl, by simpa [State.placeList] using h, fun _ => rfl, fun e => by simp [State.placeList] at e⟩
  | r :: rs, s, w, h => by
    unfold State.placeList
    cases hp : s.place r with
    | none =>
      exact ⟨[], List.nil_prefix, by simpa using h, fun e => by simp at e, fun _ => ⟨by simp, State.place_refuses hp⟩⟩
    | some t =>
      obtain ⟨w', h1, h2, h3, h4⟩ := Wrote.placeList rs t (w ++ [r]) (Store.wrote_place h hp)
      refine ⟨r :: w', (List.prefix_cons_inj r).2 h1, by simpa using h2, fun e => by rw [h3 e], fun e => ?_⟩
      exact ⟨fun g => (h4 e).1 (by simpa using g), (h4 e).2⟩

/-- Further records after those brought so far. -/
theorem Wrote.next {st : Store} {brought : List Record} {p : State × Bool} (h : Wrote st brought p) (rs : List Record) :
    Wrote st (brought ++ rs) (placeNext p rs) := by
  obtain ⟨w, h1, h2, h3, h4⟩ := h
  unfold placeNext
  split
  · rename_i hp
    obtain ⟨w', g1, g2, g3, g4⟩ := Wrote.placeList rs p.1 w h2
    rw [h3 hp] at g2
    exact ⟨brought ++ w', (List.prefix_append_right_inj brought).2 g1, g2, fun e => by rw [g3 e],
      fun e => ⟨fun g => (g4 e).1 (by simpa using g), (g4 e).2⟩⟩
  · rename_i hp
    have hp' : p.2 = false := by simpa using hp
    refine ⟨w, h1.trans (List.prefix_append _ _), h2, fun e => absurd e hp, fun e => ⟨?_, (h4 hp').2⟩⟩
    intro g
    have l1 := h1.length_le
    have l2 : w.length = brought.length + rs.length := by rw [g, List.length_append]
    exact (h4 hp').1 (h1.eq_of_length (by omega))

/-! ## A store without a trigger position -/

/-- Without a trigger position every record is placed (R23). -/
theorem State.place_armed (s : State) (r : Record) (h : s.store.trigger = none) : ∃ t, s.place r = some t := by
  unfold State.place
  split
  · exact ⟨_, rfl⟩
  · simp [Store.mayOverwrite, h]

theorem State.placeList_armed : ∀ (rs : List Record) (s : State), s.store.trigger = none →
    (State.placeList rs s).2 = true
  | [], _, _ => rfl
  | r :: rs, s, h => by
    obtain ⟨t, ht⟩ := State.place_armed s r h
    unfold State.placeList
    rw [ht]
    exact State.placeList_armed rs t ((State.place_store ht).2.2.trans h)

theorem placeNext_armed (p : State × Bool) (rs : List Record) (hp : p.2 = true) (h : p.1.store.trigger = none) :
    (placeNext p rs).2 = true := by
  unfold placeNext
  rw [if_pos hp]
  exact State.placeList_armed rs p.1 h

theorem placeNext_trigger (p : State × Bool) (rs : List Record) : (placeNext p rs).1.store.trigger = p.1.store.trigger :=
  placeNext_keeps (p := fun t => t.store.trigger = p.1.store.trigger)
    (fun _ _ _ h k => (State.place_store h).2.2.trans k) p rs rfl

theorem State.placeList_trigger (rs : List Record) (s : State) : (State.placeList rs s).1.store.trigger = s.store.trigger :=
  State.placeList_keeps (p := fun t => t.store.trigger = s.store.trigger)
    (fun _ _ _ h k => (State.place_store h).2.2.trans k) rs s rfl

theorem placeNext_floor (p : State × Bool) (rs : List Record) : (placeNext p rs).1.store.floor = p.1.store.floor :=
  placeNext_keeps (p := fun t => t.store.floor = p.1.store.floor)
    (fun _ _ _ h k => (State.place_store h).2.1.trans k) p rs rfl

theorem State.placeList_floor (rs : List Record) (s : State) : (State.placeList rs s).1.store.floor = s.store.floor :=
  State.placeList_keeps (p := fun t => t.store.floor = s.store.floor)
    (fun _ _ _ h k => (State.place_store h).2.1.trans k) rs s rfl

/-! ## The markers with an effect of their own -/

/-- A placed record takes the next sequence number (R20). -/
theorem State.place_nextSeq {s t : State} {r : Record} (h : s.place r = some t) :
    t.store.nextSeq = s.store.nextSeq + 1 := by
  unfold State.place at h
  split at h
  · cases h; rfl
  · split at h
    · cases h
      rw [State.announce_store]
      rfl
    · cases h

/-- The STATE_OVERRUN marker that the miss mark asks for (R14). -/
def overrunMarker (tick : Nat) (a : Bool) (missed : Nat) : List Record :=
  if a = true ∧ 0 < missed then [.stateOverrun tick missed] else []

/-- What the STATE_OVERRUN marker leaves; in a store without a trigger position it is placed (R14, R23). -/
theorem placeOverrun_frame (q : State × Bool) (tick : Nat) (a : Bool) :
    (placeOverrun q tick a).1.store.floor = q.1.store.floor
      ∧ (placeOverrun q tick a).1.store.trigger = q.1.store.trigger
      ∧ (placeOverrun q tick a).1.orders = q.1.orders
      ∧ (q.2 = true → q.1.store.trigger = none → (placeOverrun q tick a).2 = true) := by
  unfold placeOverrun
  split
  · dsimp only
    split
    · exact ⟨placeNext_floor _ _, placeNext_trigger _ _, placeNext_orders _ _, fun _ _ => rfl⟩
    · exact ⟨placeNext_floor _ _, placeNext_trigger _ _, placeNext_orders _ _, placeNext_armed _ _⟩
  · exact ⟨rfl, rfl, rfl, fun h _ => h⟩

/-- The STATE_OVERRUN marker is brought after the records so far. -/
theorem Wrote.overrun {st : Store} {brought : List Record} {p : State × Bool} (h : Wrote st brought p) (tick : Nat)
    (a : Bool) : Wrote st (brought ++ overrunMarker tick a p.1.sampler.missed) (placeOverrun p tick a) := by
  unfold placeOverrun overrunMarker
  by_cases g : a = true ∧ 0 < p.1.sampler.missed
  · have g' : (a && decide (0 < p.1.sampler.missed)) = true := by simpa using g
    rw [if_pos g, if_pos g']
    have hn := h.next [.stateOverrun tick p.1.sampler.missed]
    dsimp only
    split
    · rename_i hq
      obtain ⟨w, h1, h2, h3, _⟩ := hn
      exact ⟨w, h1, h2, fun _ => h3 hq, fun e => by cases e⟩
    · exact hn
  · have g' : (a && decide (0 < p.1.sampler.missed)) = false := by
      by_cases ha : a = true
      · simpa [ha] using g
      · simp [ha]
    rw [if_neg g, g']
    simpa using h

/-- The entry to TRIGGERED places its marker whatever the store holds, and notes the trigger position (R24). -/
theorem Wrote.trigger {st : Store} {brought : List Record} {p : State × Bool} (h : Wrote st brought p) (hp : p.2 = true)
    (hl : st.records.length ≤ 65536) (hs : st.records.length ≤ st.nextSeq) (hf : p.1.store.floor ≤ 65535) (tick : Nat)
    (c : Cause) :
    Wrote st (brought ++ [.trigger tick c]) (p.1.enterTriggered tick c, p.2)
      ∧ (p.1.enterTriggered tick c).store.trigger
        = some ⟨st.nextSeq + brought.length, min 65536 (st.records.length + brought.length)⟩ := by
  obtain ⟨w, _, h2, h3, _⟩ := h
  rw [h3 hp] at h2
  have hn := h2.1
  have hlen := Store.wrote_length h2
  obtain ⟨u, hu⟩ : ∃ u, u = p.1.withStore { p.1.store with trigger := some ⟨p.1.store.nextSeq, p.1.store.records.length⟩ } :=
    ⟨_, rfl⟩
  have hut : u.store.trigger = some ⟨st.nextSeq + brought.length, min 65536 (st.records.length + brought.length)⟩ := by
    rw [hu]
    simp only [State.withStore_store, hn, hlen]
    congr 2
    omega
  have hu2 : st.wrote u.store brought := by
    rw [hu]
    exact h2
  obtain ⟨t, ht⟩ : ∃ t, u.place (.trigger tick c) = some t := by
    unfold State.place
    split
    · exact ⟨_, rfl⟩
    · rename_i hfull
      have hm : u.store.mayOverwrite = true := by
        simp only [Config.storeCapacity] at hfull
        have e1 : u.store.records = p.1.store.records := by rw [hu]; rfl
        have e2 : u.store.nextSeq = p.1.store.nextSeq := by rw [hu]; rfl
        have e3 : u.store.floor = p.1.store.floor := by rw [hu]; rfl
        have e4 : u.store.trigger = some ⟨p.1.store.nextSeq, p.1.store.records.length⟩ := by rw [hu]; rfl
        simp only [Store.mayOverwrite, Store.preTrigger, Store.oldest, e1, e2, e3, e4, decide_eq_true_eq]
        rw [e1] at hfull
        omega
      rw [if_pos hm]
      exact ⟨_, rfl⟩
  have he : (p.1.enterTriggered tick c).store = t.store := by
    unfold State.enterTriggered
    simp only [State.withNotices, State.withOrders_store, State.withCapture_store]
    rw [← hu, ht]
    rfl
  refine ⟨⟨brought ++ [.trigger tick c], List.prefix_rfl, ?_, fun _ => rfl, fun e => by rw [hp] at e; cases e⟩, ?_⟩
  · dsimp only
    rw [he]
    exact Store.wrote_place hu2 ht
  · rw [he, (State.place_store ht).2.2, hut]

/-! ## The writes of a sample -/

/-- The records of a sample that come before the TRIGGER marker (R21). -/
def beforeTrigger (s : State) (x : Sample) (a : Bool) (run : Option Run) (copies : List Record) : List Record :=
  run.toList.map .run ++ overrunMarker x.tick a s.sampler.missed ++ s.store.signalMarkers x.tick ++ copies

/-- The records of a sample go to the store in the order of R21, up to the first that is refused (R26). -/
theorem State.writeSample_wrote (s : State) (x : Sample) (a : Bool) (run : Option Run) (copies : List Record)
    (c : Option Cause) (b : Option Taken) (hl : s.store.records.length ≤ 65536)
    (hs : s.store.records.length ≤ s.store.nextSeq) (hf : s.store.floor ≤ 65535)
    (hc : c.isSome = true → s.store.trigger = none) :
    let before := beforeTrigger s x a run copies
    Wrote s.store (before ++ c.toList.map (.trigger x.tick) ++ stageMarker x.tick b) (s.writeSample x a run copies c b)
      ∧ ∀ k, c = some k →
        (s.writeSample x a run copies c b).1.store.trigger
            = some ⟨s.store.nextSeq + before.length, min 65536 (s.store.records.length + before.length)⟩
          ∧ (s.writeSample x a run copies c b).1.orders.notices.triggered
            = some ⟨x.tick, s.store.nextSeq + before.length, k⟩ := by
  intro before
  have h0 : Wrote s.store [] (s, true) :=
    ⟨[], List.prefix_rfl, Store.wrote_nil _, fun _ => rfl, fun e => by cases e⟩
  have h1 : Wrote s.store (run.toList.map .run) (State.placeList (run.toList.map .run) s) := by
    simpa [placeNext] using h0.next (run.toList.map .run)
  have hm : (State.placeList (run.toList.map .run) s).1.sampler.missed = s.sampler.missed := by
    rw [State.placeList_sampler]
  have h2 := h1.overrun x.tick a
  rw [hm] at h2
  have h4 : Wrote s.store before
      (placeNext (placeNext (placeOverrun (State.placeList (run.toList.map .run) s) x.tick a) (s.store.signalMarkers x.tick))
        copies) := (h2.next _).next _
  obtain ⟨p, hpd⟩ : ∃ p, p =
      placeNext (placeNext (placeOverrun (State.placeList (run.toList.map .run) s) x.tick a) (s.store.signalMarkers x.tick))
        copies := ⟨_, rfl⟩
  rw [← hpd] at h4
  have hpf : p.1.store.floor = s.store.floor := by
    rw [hpd, placeNext_floor, placeNext_floor, (placeOverrun_frame _ x.tick a).1, State.placeList_floor]
  have hpo : p.1.orders = s.orders := by
    rw [hpd, placeNext_orders, placeNext_orders, (placeOverrun_frame _ x.tick a).2.2.1, State.placeList_orders]
  have hp2 : s.store.trigger = none → p.2 = true := by
    intro ht
    rw [hpd]
    have e1 : (State.placeList (run.toList.map .run) s).1.store.trigger = none := (State.placeList_trigger _ _).trans ht
    apply placeNext_armed
    · apply placeNext_armed
      · exact (placeOverrun_frame _ x.tick a).2.2.2 (State.placeList_armed _ _ ht) e1
      · rw [(placeOverrun_frame _ x.tick a).2.1, e1]
    · rw [placeNext_trigger, (placeOverrun_frame _ x.tick a).2.1, e1]
  cases c with
  | none =>
    have hw : s.writeSample x a run copies none b = placeNext p (stageMarker x.tick b) := by rw [hpd]; rfl
    rw [hw]
    exact ⟨by simpa using h4.next (stageMarker x.tick b), fun k e => by cases e⟩
  | some k =>
    have hw : s.writeSample x a run copies (some k) b =
        placeNext (p.1.enterTriggered x.tick k, p.2) (stageMarker x.tick b) := by rw [hpd]; rfl
    rw [hw]
    have ht := hc rfl
    have g := h4.trigger (hp2 ht) hl hs (by rw [hpf]; exact hf) x.tick k
    refine ⟨by simpa using g.1.next (stageMarker x.tick b), fun k' e => ?_⟩
    cases e
    obtain ⟨w, _, hw2, hw3, _⟩ := h4
    rw [hw3 (hp2 ht)] at hw2
    refine ⟨(placeNext_trigger _ _).trans g.2, ?_⟩
    rw [placeNext_orders]
    dsimp only
    rw [State.enterTriggered_orders]
    simp only [NoticeSet.setTriggered, hw2.1]

/-- The writes of a sample that is no trigger sample leave the trigger position and the notices. -/
theorem State.writeSample_untriggered (s : State) (x : Sample) (a : Bool) (run : Option Run) (copies : List Record)
    (b : Option Taken) :
    (s.writeSample x a run copies none b).1.store.trigger = s.store.trigger
      ∧ (s.writeSample x a run copies none b).1.orders = s.orders := by
  unfold State.writeSample
  constructor
  · rw [placeNext_trigger]
    dsimp only
    rw [placeNext_trigger, placeNext_trigger, (placeOverrun_frame _ x.tick a).2.1, State.placeList_trigger]
  · rw [placeNext_orders]
    dsimp only
    rw [placeNext_orders, placeNext_orders, (placeOverrun_frame _ x.tick a).2.2.1, State.placeList_orders]

/-- The store after the entry to TRIGGERED: one record more, or as it was but for the trigger position (R24). -/
theorem State.enterTriggered_store (s : State) (tick : Nat) (c : Cause) :
    let u := s.withStore { s.store with trigger := some ⟨s.store.nextSeq, s.store.records.length⟩ }
    (s.enterTriggered tick c).store = ((u.place (.trigger tick c)).getD u).store
      ∧ (s.enterTriggered tick c).readout = ((u.place (.trigger tick c)).getD u).readout
      ∧ (s.enterTriggered tick c).columns = ((u.place (.trigger tick c)).getD u).columns :=
  ⟨rfl, rfl, rfl⟩

/-- The writes of a sample leave the pre-trigger floor. -/
theorem State.writeSample_floor (s : State) (x : Sample) (a : Bool) (run : Option Run) (copies : List Record)
    (c : Option Cause) (b : Option Taken) : (s.writeSample x a run copies c b).1.store.floor = s.store.floor :=
  State.writeSample_keeps (p := fun t => t.store.floor = s.store.floor)
    (fun _ _ _ h k => (State.place_store h).2.1.trans k) (fun _ k => k)
    (fun u _ _ k => by
      rw [(State.enterTriggered_store u _ _).1]
      cases h : State.place _ _ with
      | none => exact k
      | some v => exact (State.place_store h).2.1.trans k)
    s x a run copies c b rfl

/-! ## Writes into free slots -/

/-- Records were written since `s`; as long as they found free slots, no overwrite told the readers anything (R23, R28). -/
def WroteQuietly (s t : State) : Prop :=
  s.store.nextSeq ≤ t.store.nextSeq
    ∧ t.store.records.length ≤ s.store.records.length + (t.store.nextSeq - s.store.nextSeq)
    ∧ (s.store.records.length + (t.store.nextSeq - s.store.nextSeq) ≤ 65536 →
        t.readout = s.readout ∧ t.columns = s.columns)

theorem WroteQuietly.refl (s : State) : WroteQuietly s s := ⟨Nat.le_refl _, by omega, fun _ => ⟨rfl, rfl⟩⟩

theorem WroteQuietly.place {s t u : State} {r : Record} (h : WroteQuietly s t) (hp : t.place r = some u) :
    WroteQuietly s u := by
  obtain ⟨h1, h2, h3⟩ := h
  have hn := State.place_nextSeq hp
  by_cases hl : t.store.records.length < 65536
  · rw [State.place_free t r hl] at hp
    cases hp
    refine ⟨?_, ?_, fun g => h3 ?_⟩
    · dsimp only at hn ⊢; omega
    · simp only [List.length_append, List.length_singleton]; omega
    · dsimp only at g; omega
  · unfold State.place at hp
    simp only [Config.storeCapacity, if_neg hl] at hp
    split at hp
    · cases hp
      refine ⟨by omega, ?_, fun g => ?_⟩
      · rw [hn, State.announce_store]
        simp only [State.withStore_store, Store.append, Store.dropOldest, List.length_append, List.length_singleton,
          List.length_drop]
        omega
      · rw [hn] at g
        omega
    · cases hp

/-- The writes of a sample are quiet while the store has free slots. -/
theorem State.writeSample_quiet (s : State) (x : Sample) (a : Bool) (run : Option Run) (copies : List Record)
    (c : Option Cause) (b : Option Taken) : WroteQuietly s (s.writeSample x a run copies c b).1 :=
  State.writeSample_keeps (p := WroteQuietly s) (fun _ _ _ h k => k.place h) (fun _ k => k)
    (fun u _ _ k => by
      obtain ⟨e1, e2, e3⟩ := State.enterTriggered_store u _ _
      unfold WroteQuietly
      rw [e1, e2, e3]
      have k' : WroteQuietly s (u.withStore { u.store with trigger := some ⟨u.store.nextSeq, u.store.records.length⟩ }) := k
      cases h : State.place _ _ with
      | none => exact k'
      | some v => exact k'.place h)
    s x a run copies c b (WroteQuietly.refl s)

/-! ## The miss mark -/

/-- The records of a sample that follow the STATE_OVERRUN marker (R21). -/
def placeRest (p : State × Bool) (tick : Nat) (markers copies : List Record) (c : Option Cause) (b : Option Taken) :
    State × Bool :=
  placeNext (match c with
    | none => placeNext (placeNext p markers) copies
    | some k => ((placeNext (placeNext p markers) copies).1.enterTriggered tick k,
        (placeNext (placeNext p markers) copies).2)) (stageMarker tick b)

theorem State.writeSample_rest (s : State) (x : Sample) (a : Bool) (run : Option Run) (copies : List Record)
    (c : Option Cause) (b : Option Taken) :
    s.writeSample x a run copies c b =
      placeRest (placeOverrun (State.placeList (run.toList.map .run) s) x.tick a) x.tick (s.store.signalMarkers x.tick)
        copies c b := by
  cases c <;> rfl

/-- What follows the STATE_OVERRUN marker leaves the Sampler and takes no sequence number back. -/
theorem placeRest_keeps (p : State × Bool) (tick : Nat) (markers copies : List Record) (c : Option Cause)
    (b : Option Taken) :
    (placeRest p tick markers copies c b).1.sampler = p.1.sampler
      ∧ p.1.store.nextSeq ≤ (placeRest p tick markers copies c b).1.store.nextSeq := by
  unfold placeRest
  have hk : ∀ s t r, State.place s r = some t → p.1.store.nextSeq ≤ s.store.nextSeq → p.1.store.nextSeq ≤ t.store.nextSeq :=
    fun _ _ _ h k => by rw [State.place_nextSeq h]; omega
  have h2 : p.1.store.nextSeq ≤ (placeNext (placeNext p markers) copies).1.store.nextSeq :=
    placeNext_keeps (p := fun t => p.1.store.nextSeq ≤ t.store.nextSeq) hk _ _
      (placeNext_keeps (p := fun t => p.1.store.nextSeq ≤ t.store.nextSeq) hk _ _ (Nat.le_refl _))
  cases c with
  | none =>
    exact ⟨by simp, placeNext_keeps (p := fun t => p.1.store.nextSeq ≤ t.store.nextSeq) hk _ _ h2⟩
  | some k =>
    refine ⟨by simp, placeNext_keeps (p := fun t => p.1.store.nextSeq ≤ t.store.nextSeq) hk _ _ ?_⟩
    rw [(State.enterTriggered_store _ _ _).1]
    cases h : State.place _ _ with
    | none => exact h2
    | some v => exact hk _ _ _ h h2

/-- The missed edges are forgotten when their marker was placed, and only then (R14). -/
theorem State.writeSample_missed (s : State) (x : Sample) (a : Bool) (run : Option Run) (copies : List Record)
    (c : Option Cause) (b : Option Taken) (hc : c.isSome = true → s.store.trigger = none) :
    (s.writeSample x a run copies c b).1.sampler.missed =
      if a = true ∧ s.store.nextSeq + run.toList.length < (s.writeSample x a run copies c b).1.store.nextSeq then 0
      else s.sampler.missed := by
  obtain ⟨r, hr⟩ : ∃ r, r = State.placeList (run.toList.map .run) s := ⟨_, rfl⟩
  have hrs : r.1.sampler = s.sampler := by rw [hr, State.placeList_sampler]
  have hrl : r.1.store.nextSeq ≤ s.store.nextSeq + run.toList.length
      ∧ (r.2 = true → r.1.store.nextSeq = s.store.nextSeq + run.toList.length) := by
    obtain ⟨w, h1, h2, h3, _⟩ := Wrote.placeList (run.toList.map .run) s [] (Store.wrote_nil _)
    rw [← hr] at h2 h3
    have l1 := h1.length_le
    have l2 := h2.1
    simp only [List.nil_append, List.length_map] at l1 l2
    refine ⟨by omega, fun e => ?_⟩
    rw [h3 e] at l2
    simpa using l2
  have hw := State.writeSample_rest s x a run copies c b
  rw [← hr] at hw
  have hsuf := placeRest_keeps (placeOverrun r x.tick a) x.tick (s.store.signalMarkers x.tick) copies c b
  rw [← hw] at hsuf
  rw [hsuf.1]
  by_cases g : a = true ∧ 0 < r.1.sampler.missed
  · have g' : (a && decide (0 < r.1.sampler.missed)) = true := by simpa using g
    unfold placeOverrun at hsuf hw ⊢
    rw [g'] at hsuf hw ⊢
    simp only [if_true] at hsuf hw ⊢
    by_cases hq : (placeNext r [.stateOverrun x.tick r.1.sampler.missed]).2 = true
    · rw [if_pos hq] at hsuf ⊢
      have hr2 : r.2 = true := by
        cases e : r.2 with
        | true => rfl
        | false =>
          have e' : placeNext r [.stateOverrun x.tick r.1.sampler.missed] = r := by
            unfold placeNext; rw [if_neg (by simp [e])]
          rw [e', e] at hq
          cases hq
      have hn : (placeNext r [.stateOverrun x.tick r.1.sampler.missed]).1.store.nextSeq = r.1.store.nextSeq + 1 := by
        unfold placeNext at hq ⊢
        rw [if_pos hr2] at hq ⊢
        unfold State.placeList at hq ⊢
        cases hp : State.place r.1 (.stateOverrun x.tick r.1.sampler.missed) with
        | none => rw [hp] at hq; cases hq
        | some t => exact State.place_nextSeq hp
      have h2 := hsuf.2
      simp only [State.withSampler_store] at h2
      rw [if_pos ⟨g.1, by have := hrl.2 hr2; omega⟩]
      rfl
    · rw [if_neg hq] at hw ⊢
      have hcn : c = none := by
        cases c with
        | none => rfl
        | some k =>
          have ht := hc rfl
          refine absurd (placeNext_armed r _ ?_ ?_) hq
          · rw [hr]; exact State.placeList_armed _ _ ht
          · rw [hr]; exact (State.placeList_trigger _ _).trans ht
      subst hcn
      have hstay : ∀ (q : State × Bool) (rs : List Record), ¬q.2 = true → placeNext q rs = q := by
        intro q rs h; unfold placeNext; rw [if_neg h]
      have hn : (placeNext r [.stateOverrun x.tick r.1.sampler.missed]).1.store.nextSeq = r.1.store.nextSeq := by
        by_cases hr2 : r.2 = true
        · unfold placeNext at hq ⊢
          rw [if_pos hr2] at hq ⊢
          unfold State.placeList at hq ⊢
          cases hp : State.place r.1 (.stateOverrun x.tick r.1.sampler.missed) with
          | none => rfl
          | some t => rw [hp] at hq; exact absurd rfl hq
        · rw [hstay _ _ hr2]
      rw [hw]
      unfold placeRest
      dsimp only
      rw [hstay _ (s.store.signalMarkers x.tick) hq, hstay _ copies hq, hstay _ (stageMarker x.tick b) hq, hn,
        placeNext_sampler, hrs, if_neg]
      intro e
      have := hrl.1
      omega
  · have g' : (a && decide (0 < r.1.sampler.missed)) = false := by
      by_cases ha : a = true
      · simpa [ha] using g
      · simp [ha]
    have hpo : placeOverrun r x.tick a = r := by unfold placeOverrun; rw [g']; rfl
    rw [hpo, hrs]
    split
    · rename_i e
      rw [hrs] at g
      have : ¬0 < s.sampler.missed := fun e' => g ⟨e.1, e'⟩
      omega
    · rfl

end Sys2Proof.Machine
end

