-- ==== Sys2Proof/Laws/Handled.lean ====
section
/-! SUPPORT. Every kind of sample is a sample of the state it comes in, and does all that a sample does. -/

namespace Sys2Proof.Machine

/-! ## A sample in parts -/

/-- The trigger cause of a sample is the one that its evaluation and the pending force give (R45, R46). -/
theorem State.triggerCause_eq (s : State) : s.triggerCause s.evaluated.2 = s.sampleCause := by
  unfold State.triggerCause State.sampleCause
  split
  · rfl
  · cases h : s.evaluated.2 with
    | none => rfl
    | some b => cases hb : b.branch.trigger <;> simp [Option.filter, hb]

/-- The state that a sample's records are written in: every consumer but the store has handled it. -/
def State.handed (s : State) : State :=
  let s1 := ((s.withCounters (s.counters.handleSample s.readSample).clearEvents).withDecoders
    (s.decoders.handleSample s.readSample)).withSeq s.evaluated.1
  (s1.withSampler (s1.sampler.afterSample s.readSample s.sampleRun.2)).withCapture s1.capture.countSample

/-- The writes of the sample read now. -/
def State.sampleWriting (s : State) (a : Bool) : State × Bool :=
  s.handed.writeSample s.readSample a s.sampleRun.1 (s.decoders.copies s.readSample.tick (s.decoders.completed s.readSample))
    s.sampleCause s.evaluated.2

/-- The state after a sample but for the end of the capture that it can bring. -/
def State.beforeSettle (s : State) (a : Bool) : State :=
  (((s.sampleWriting a).1.withStore { (s.sampleWriting a).1.store with placement := [] }).streamRecords
    (fun i => (s.decoders.slots.get i).stream) (s.decoders.completed s.readSample)).branchActions s.readSample.tick
      s.evaluated.2

theorem State.takeSample_eq (s : State) (a : Bool) :
    s.takeSample a = (s.beforeSettle a).settleDepth (s.sampleWriting a).2 := by
  have h := State.triggerCause_eq s
  unfold State.beforeSettle State.sampleWriting State.handed State.sampleRun
  rw [← h]
  rfl

/-- What the sample brings before the end of the capture, in the order of R21. -/
def State.sampleBrings (s : State) (a : Bool) : List Record :=
  s.writesBeforeTrigger a ++ s.sampleCause.toList.map (.trigger s.time.tick) ++ stageMarker s.time.tick s.evaluated.2

theorem State.sampleWrites_eq (s : State) (a : Bool) :
    s.sampleWrites a = s.sampleBrings a ++ (if s.sampleEnds then [.run s.sampleRun.2] else []) := rfl

/-- The trigger sample comes in ARMED (R45). -/
theorem State.sampleCause_armed {s : State} (h : s.sampleCause.isSome = true) : s.capture.state = .armed := by
  unfold State.sampleCause at h
  split at h
  · cases h
  · rename_i g
    simpa using g

theorem State.sampleCause_trigger {s : State} (hb : s.bounded) (h : s.sampleCause.isSome = true) :
    s.store.trigger = none :=
  hb.2.2.2.2.1 (State.sampleCause_armed h)

/-- The records of a sample in the state that it comes in. -/
theorem State.sampleWriting_wrote {s : State} (a : Bool) (hb : s.bounded) :
    Wrote s.store (s.sampleBrings a) (s.sampleWriting a)
      ∧ ∀ k, s.sampleCause = some k →
        (s.sampleWriting a).1.store.trigger
            = some ⟨s.store.nextSeq + (s.writesBeforeTrigger a).length,
                min 65536 (s.store.records.length + (s.writesBeforeTrigger a).length)⟩
          ∧ (s.sampleWriting a).1.orders.notices.triggered
            = some ⟨s.time.tick, s.store.nextSeq + (s.writesBeforeTrigger a).length, k⟩ := by
  have hs : s.handed.store = s.store := by simp [State.handed]
  have hm : s.handed.sampler.missed = s.sampler.missed := by simp [State.handed, Sampler.afterSample]
  have hx : s.readSample.tick = s.time.tick := rfl
  have h := State.writeSample_wrote s.handed s.readSample a s.sampleRun.1
    (s.decoders.copies s.readSample.tick (s.decoders.completed s.readSample)) s.sampleCause s.evaluated.2
    (by rw [hs]; exact hb.2.1) (by rw [hs]; exact hb.2.2.1) (by rw [hs]; exact hb.2.2.2.1)
    (by rw [hs]; exact State.sampleCause_trigger hb)
  have hb' : beforeTrigger s.handed s.readSample a s.sampleRun.1
      (s.decoders.copies s.readSample.tick (s.decoders.completed s.readSample)) = s.writesBeforeTrigger a := by
    unfold beforeTrigger overrunMarker
    rw [hs, hm, hx]
    rfl
  dsimp only at h
  rw [hb', hs, hx] at h
  exact h

/-! ## The state before the end -/

/-- Capture Control before the end that a sample can bring (R45, R47). -/
theorem State.beforeSettle_capture (s : State) (a : Bool) : (s.beforeSettle a).capture = s.sampleCapture := by
  simp only [State.beforeSettle, State.branchActions_capture, State.streamRecords_capture, State.withStore_capture,
    State.sampleWriting, State.writeSample_capture, State.handed, State.withCapture_capture, State.withSeq_capture,
    State.withDecoders_capture, State.withCounters_capture, State.sampleCapture]
  split
  · rename_i h
    rw [CaptureControl.countSample, if_neg (by rw [State.sampleCause_armed h]; decide)]
    rfl
  · rfl

theorem State.beforeSettle_store (s : State) (a : Bool) :
    (s.beforeSettle a).store = { (s.sampleWriting a).1.store with placement := [] } := by
  simp [State.beforeSettle]

theorem State.beforeSettle_sampler (s : State) (a : Bool) :
    (s.beforeSettle a).sampler = (s.sampleWriting a).1.sampler := by
  simp [State.beforeSettle]

theorem State.sampleWriting_openRun (s : State) (a : Bool) :
    (s.sampleWriting a).1.sampler.openRun = some s.sampleRun.2 := by
  unfold State.sampleWriting
  rcases State.writeSample_sampler s.handed s.readSample a s.sampleRun.1
    (s.decoders.copies s.readSample.tick (s.decoders.completed s.readSample)) s.sampleCause s.evaluated.2 with h | h <;>
    rw [h] <;> rfl

/-- The notice set before the end: the records lost to the full queue have set DECODE_LOSS (R125). -/
theorem State.streamRecords_notices (s : State) (m : Fin 4 → Bool) (r : List DecodeRecord) :
    (s.streamRecords m r).orders.notices.triggered = s.orders.notices.triggered
      ∧ (s.streamRecords m r).orders.notices.done = s.orders.notices.done
      ∧ (s.streamRecords m r).orders.notices.decodeLoss
        = (s.orders.notices.decodeLoss || (Streamer.receiveAll m s.time.elapsed r s.streamer).2) := by
  have hn : ∀ n : NoticeSet, n.setDecodeLoss.triggered = n.triggered ∧ n.setDecodeLoss.done = n.done
      ∧ n.setDecodeLoss.decodeLoss = true := by
    intro n
    unfold NoticeSet.setDecodeLoss NoticeSet.noteSetting
    refine ⟨?_, ?_, rfl⟩ <;> split <;> rfl
  unfold State.streamRecords State.withNotices
  dsimp only
  split
  · rename_i h
    obtain ⟨h1, h2, h3⟩ := hn s.orders.notices
    exact ⟨h1, h2, by rw [h]; simpa using h3⟩
  · rename_i h
    refine ⟨rfl, rfl, ?_⟩
    simp only [Bool.not_eq_true] at h
    rw [h, Bool.or_false]
    rfl

/-- DONE is set with its reason, and the other notices stay (R50, R177). -/
theorem NoticeSet.setDone_notices (n : NoticeSet) (w : Reason) :
    (n.setDone w).triggered = n.triggered ∧ (n.setDone w).done = some w ∧ (n.setDone w).decodeLoss = n.decodeLoss := by
  unfold NoticeSet.setDone NoticeSet.noteSetting
  refine ⟨?_, rfl, ?_⟩ <;> split <;> rfl

/-! ## The end that a sample brings -/

/-- How a sample settles: the capture goes on, or ends with DEPTH or STORE_LIMIT, and with what in the store (R17, R26, R47). -/
theorem State.settle_cases {s : State} (a : Bool) :
    ((s.sampleWriting a).2 = false ∧ s.takeSample a = (s.beforeSettle a).endCapture .storeLimit
        ∧ (s.takeSample a).capture = s.sampleCapture.finish .storeLimit
        ∧ (s.takeSample a).store = (s.beforeSettle a).store ∧ (s.takeSample a).readout = (s.beforeSettle a).readout
        ∧ (s.takeSample a).columns = (s.beforeSettle a).columns)
      ∨ ((s.sampleWriting a).2 = true ∧ s.sampleEnds = false ∧ s.takeSample a = s.beforeSettle a)
      ∨ ((s.sampleWriting a).2 = true ∧ s.sampleEnds = true ∧ s.takeSample a = (s.beforeSettle a).endCapture .depth
        ∧ ((∃ u, (s.beforeSettle a).place (.run s.sampleRun.2) = some u
              ∧ (s.takeSample a).capture = s.sampleCapture.finish .depth
              ∧ (s.takeSample a).store = { u.store with placement := [] } ∧ (s.takeSample a).readout = u.readout
              ∧ (s.takeSample a).columns = u.columns)
          ∨ ((s.beforeSettle a).place (.run s.sampleRun.2) = none
              ∧ (s.takeSample a).capture = s.sampleCapture.finish .storeLimit
              ∧ (s.takeSample a).store = (s.beforeSettle a).store
              ∧ (s.takeSample a).readout = (s.beforeSettle a).readout
              ∧ (s.takeSample a).columns = (s.beforeSettle a).columns))) := by
  have hst : { (s.beforeSettle a).store with placement := [] } = (s.beforeSettle a).store := by
    rw [State.beforeSettle_store]
  have hr : (s.beforeSettle a).sampler.openRun = some s.sampleRun.2 := by
    rw [State.beforeSettle_sampler, State.sampleWriting_openRun]
  rw [State.takeSample_eq, State.settleDepth, State.beforeSettle_capture]
  cases h2 : (s.sampleWriting a).2 with
  | false =>
    left
    simp only [Bool.not_false, if_true, true_and]
    have hc : (s.beforeSettle a).closeLastRun .storeLimit = (s.beforeSettle a, .storeLimit) := rfl
    refine ⟨?_, ?_, ?_, ?_⟩
    · rw [State.endCapture_capture, hc, State.beforeSettle_capture]
    · rw [State.endCapture_store, hc, hst]
    · rw [State.endCapture_readout, hc]
    · rw [State.endCapture_columns, hc]
  | true =>
    right
    by_cases he : s.sampleCapture.state = .triggered ∧ s.sampleCapture.countdown = 0
    · right
      have he' : s.sampleEnds = true := by unfold State.sampleEnds; exact decide_eq_true he
      simp only [Bool.not_true, Bool.false_eq_true, if_false, if_pos he, he', true_and]
      cases hp : (s.beforeSettle a).place (.run s.sampleRun.2) with
      | some u =>
        left
        have hc : (s.beforeSettle a).closeLastRun .depth = (u, .depth) := by
          unfold State.closeLastRun; rw [if_neg (by decide), hr]; dsimp only; rw [hp]
        refine ⟨u, rfl, ?_, ?_, ?_, ?_⟩
        · rw [State.endCapture_capture, hc, State.beforeSettle_capture]
        · rw [State.endCapture_store, hc]
        · rw [State.endCapture_readout, hc]
        · rw [State.endCapture_columns, hc]
      | none =>
        right
        have hc : (s.beforeSettle a).closeLastRun .depth = (s.beforeSettle a, .storeLimit) := by
          unfold State.closeLastRun; rw [if_neg (by decide), hr]; dsimp only; rw [hp]
        refine ⟨rfl, ?_, ?_, ?_, ?_⟩
        · rw [State.endCapture_capture, hc, State.beforeSettle_capture]
        · rw [State.endCapture_store, hc, hst]
        · rw [State.endCapture_readout, hc]
        · rw [State.endCapture_columns, hc]
    · left
      have he' : s.sampleEnds = false := by unfold State.sampleEnds; exact decide_eq_false he
      simp [if_neg he, he']

/-! ## What the writes leave -/

/-- The missed edges after the writes of a sample (R14). -/
theorem State.sampleWriting_missed {s : State} (a : Bool) (hb : s.bounded) :
    (s.sampleWriting a).1.sampler.missed =
      if a = true ∧ s.store.nextSeq + s.sampleRun.1.toList.length < (s.sampleWriting a).1.store.nextSeq then 0
      else s.sampler.missed := by
  have hs : s.handed.store = s.store := by simp [State.handed]
  have hm : s.handed.sampler.missed = s.sampler.missed := by simp [State.handed, Sampler.afterSample]
  have h := State.writeSample_missed s.handed s.readSample a s.sampleRun.1
    (s.decoders.copies s.readSample.tick (s.decoders.completed s.readSample)) s.sampleCause s.evaluated.2
    (by rw [hs]; exact State.sampleCause_trigger hb)
  rw [hs, hm] at h
  exact h

/-- With the missed edges gone or none to mark, whether more was written does not matter. -/
theorem State.sampleWriting_missed_more {s : State} (a : Bool) (hb : s.bounded)
    (hw : (s.sampleWriting a).1.store.nextSeq = s.store.nextSeq + (s.sampleBrings a).length) (r : Record) :
    (s.sampleWriting a).1.sampler.missed =
      if a = true ∧ s.sampleRun.1.toList.length < (s.sampleBrings a ++ [r]).length then 0 else s.sampler.missed := by
  rw [State.sampleWriting_missed a hb, hw]
  by_cases g : a = true ∧ 0 < s.sampler.missed
  · have hl : s.sampleRun.1.toList.length < (s.sampleBrings a).length := by
      simp only [State.sampleBrings, State.writesBeforeTrigger, if_pos g, List.length_append, List.length_map,
        List.length_singleton]
      omega
    have h1 : s.store.nextSeq + s.sampleRun.1.toList.length < s.store.nextSeq + (s.sampleBrings a).length := by omega
    have h2 : s.sampleRun.1.toList.length < (s.sampleBrings a ++ [r]).length := by
      rw [List.length_append]; omega
    rw [if_pos ⟨g.1, h1⟩, if_pos ⟨g.1, h2⟩]
  · by_cases ha : a = true
    · have : s.sampler.missed = 0 := by
        by_cases e : 0 < s.sampler.missed
        · exact absurd ⟨ha, e⟩ g
        · omega
      rw [this]
      simp
    · rw [if_neg (fun e => ha e.1), if_neg (fun e => ha e.1)]

/-- The writes of a sample leave the DONE and DECODE_LOSS notices. -/
theorem State.writeSample_notices (s : State) (x : Sample) (a : Bool) (run : Option Run) (copies : List Record)
    (c : Option Cause) (b : Option Taken) :
    (s.writeSample x a run copies c b).1.orders.notices.done = s.orders.notices.done
      ∧ (s.writeSample x a run copies c b).1.orders.notices.decodeLoss = s.orders.notices.decodeLoss :=
  State.writeSample_keeps
    (p := fun t => t.orders.notices.done = s.orders.notices.done
      ∧ t.orders.notices.decodeLoss = s.orders.notices.decodeLoss)
    (fun _ _ _ h k => by rw [State.place_orders h]; exact k) (fun _ k => k)
    (fun u n c k => by
      rw [State.enterTriggered_orders]
      dsimp only
      have h : ∀ d, (u.orders.notices.setTriggered d).done = u.orders.notices.done
          ∧ (u.orders.notices.setTriggered d).decodeLoss = u.orders.notices.decodeLoss := by
        intro d
        unfold NoticeSet.setTriggered NoticeSet.noteSetting
        constructor <;> split <;> rfl
      rw [(h _).1, (h _).2]
      exact k)
    s x a run copies c b ⟨rfl, rfl⟩

/-- The notices before the end: the trigger of the writes, and the losses of the Streamer. -/
theorem State.beforeSettle_notices (s : State) (a : Bool) :
    (s.beforeSettle a).orders.notices.triggered = (s.sampleWriting a).1.orders.notices.triggered
      ∧ (s.beforeSettle a).orders.notices.done = s.orders.notices.done
      ∧ (s.beforeSettle a).orders.notices.decodeLoss = (s.orders.notices.decodeLoss
        || (Streamer.receiveAll (fun i => (s.decoders.slots.get i).stream) s.time.elapsed
          (s.decoders.completed s.readSample) s.streamer).2) := by
  have hw := State.writeSample_notices s.handed s.readSample a s.sampleRun.1
    (s.decoders.copies s.readSample.tick (s.decoders.completed s.readSample)) s.sampleCause s.evaluated.2
  have hs : (s.sampleWriting a).1.streamer = s.streamer := by simp [State.sampleWriting, State.handed]
  have ht : (s.sampleWriting a).1.time = s.time := by simp [State.sampleWriting, State.handed]
  have ho : s.handed.orders = s.orders := by simp [State.handed]
  rw [ho] at hw
  unfold State.beforeSettle
  rw [State.branchActions_orders]
  obtain ⟨h1, h2, h3⟩ := State.streamRecords_notices
    ((s.sampleWriting a).1.withStore { (s.sampleWriting a).1.store with placement := [] })
    (fun i => (s.decoders.slots.get i).stream) (s.decoders.completed s.readSample)
  rw [h1, h2, h3]
  simp only [State.withStore_orders, State.withStore_time, State.withStore_streamer, hs, ht]
  refine ⟨trivial, hw.1, ?_⟩
  show ((s.sampleWriting a).1.orders.notices.decodeLoss || _) = _
  unfold State.sampleWriting
  rw [hw.2]

/-- The counters before the end (R71, R74). -/
theorem State.beforeSettle_counters (s : State) (a : Bool) :
    (s.beforeSettle a).counters =
      match s.evaluated.2 with
      | none => (s.counters.handleSample s.readSample).clearEvents
      | some b => (s.counters.handleSample s.readSample).clearEvents.restart b.branch.restarts s.time.tick := by
  have h : (s.sampleWriting a).1.counters = (s.counters.handleSample s.readSample).clearEvents := by
    simp [State.sampleWriting, State.handed]
  unfold State.beforeSettle State.branchActions
  cases s.evaluated.2 with
  | none => simp [h]
  | some b => simp [h, State.readSample, State.tick]

theorem State.beforeSettle_decoders (s : State) (a : Bool) :
    (s.beforeSettle a).decoders = s.decoders.handleSample s.readSample := by
  simp [State.beforeSettle, State.sampleWriting, State.handed]

/-- While the store has free slots, the writes before the end tell the readers nothing (R28). -/
theorem State.beforeSettle_quiet (s : State) (a : Bool) : WroteQuietly s (s.beforeSettle a) := by
  have h := State.writeSample_quiet s.handed s.readSample a s.sampleRun.1
    (s.decoders.copies s.readSample.tick (s.decoders.completed s.readSample)) s.sampleCause s.evaluated.2
  have hs : s.handed.store = s.store := by simp [State.handed]
  have hr : s.handed.readout = s.readout := by simp [State.handed]
  have hc : s.handed.columns = s.columns := by simp [State.handed]
  unfold WroteQuietly at h ⊢
  rw [hs, hr, hc] at h
  rw [State.beforeSettle_store]
  have e1 : (s.beforeSettle a).readout = (s.sampleWriting a).1.readout := by simp [State.beforeSettle]
  have e2 : (s.beforeSettle a).columns = (s.sampleWriting a).1.columns := by simp [State.beforeSettle]
  rw [e1, e2]
  exact h

/-! ## A sample of the state that it comes in -/

/-- What a sample leaves in the store, and why it ends the capture if it does (R14, R17, R20, R26, R47). -/
theorem State.takeSample_stored {s : State} (a : Bool) (hb : s.bounded) :
    ∃ written, written <+: s.sampleWrites a ∧ s.store.wrote (s.takeSample a).store written
      ∧ (written = s.sampleWrites a →
          (s.takeSample a).capture = if s.sampleEnds then s.sampleCapture.finish .depth else s.sampleCapture)
      ∧ (written ≠ s.sampleWrites a →
          (s.takeSample a).store.refuses ∧ (s.takeSample a).capture = s.sampleCapture.finish .storeLimit)
      ∧ (s.takeSample a).sampler.missed =
          if a = true ∧ s.sampleRun.1.toList.length < written.length then 0 else s.sampler.missed := by
  obtain ⟨⟨w, h1, h2, h3, h4⟩, _⟩ := State.sampleWriting_wrote a hb
  have hst := State.beforeSettle_store s a
  have hm : (s.takeSample a).sampler.missed = (s.sampleWriting a).1.sampler.missed := by
    rw [State.takeSample_eq, ← State.beforeSettle_sampler s a]
    rcases State.settleDepth_sampler (s.beforeSettle a) (s.sampleWriting a).2 with h | h <;> rw [h]
    rfl
  have hmw : (s.sampleWriting a).1.sampler.missed =
      if a = true ∧ s.sampleRun.1.toList.length < w.length then 0 else s.sampler.missed := by
    rw [State.sampleWriting_missed a hb, h2.1]
    simp only [Nat.add_lt_add_iff_left]
  have hwr : s.store.wrote (s.beforeSettle a).store w := by rw [hst]; exact h2
  rcases State.settle_cases (s := s) a with ⟨p2, _, hc, hs, _⟩ | ⟨p2, he, ht⟩ | ⟨p2, he, _, hcase⟩
  · obtain ⟨hne, href⟩ := h4 p2
    have hlt : w.length < (s.sampleBrings a).length := by
      have := h1.length_le
      rcases Nat.lt_or_ge w.length (s.sampleBrings a).length with e | e
      · exact e
      · exact absurd (h1.eq_of_length (by omega)) hne
    have hne' : w ≠ s.sampleWrites a := by
      intro e
      have := congrArg List.length e
      rw [State.sampleWrites_eq, List.length_append] at this
      omega
    refine ⟨w, ?_, ?_, fun e => absurd e hne', fun _ => ⟨?_, hc⟩, hm.trans hmw⟩
    · rw [State.sampleWrites_eq]; exact h1.trans (List.prefix_append _ _)
    · rw [hs]; exact hwr
    · rw [hs, hst]; exact href
  · have hw := h3 p2
    have hsw : s.sampleWrites a = s.sampleBrings a := by rw [State.sampleWrites_eq, he]; simp
    refine ⟨w, by rw [hsw]; exact h1, by rw [ht]; exact hwr, fun _ => ?_, fun e => absurd (hw.trans hsw.symm) e, hm.trans hmw⟩
    rw [ht, State.beforeSettle_capture, he]
    rfl
  · have hw := h3 p2
    subst hw
    have hsw : s.sampleWrites a = s.sampleBrings a ++ [.run s.sampleRun.2] := by rw [State.sampleWrites_eq, he]; rfl
    rcases hcase with ⟨u, hp, hc, hs, _⟩ | ⟨hp, hc, hs, _⟩
    · refine ⟨s.sampleBrings a ++ [.run s.sampleRun.2], ⟨[], by rw [List.append_nil, hsw]⟩, ?_, fun _ => by rw [hc, he]; rfl,
        fun e => absurd hsw.symm e, ?_⟩
      · rw [hs]; exact Store.wrote_place hwr hp
      · rw [hm]; exact State.sampleWriting_missed_more a hb h2.1 _
    · refine ⟨s.sampleBrings a, by rw [hsw]; exact List.prefix_append _ _, by rw [hs]; exact hwr, fun e => ?_,
        fun _ => ⟨by rw [hs]; exact State.place_refuses hp, hc⟩, hm.trans hmw⟩
      have := congrArg List.length (e.trans hsw)
      simp at this

/-- A sample of a running capture does all that SampleHandled says. -/
theorem State.takeSample_handles {s : State} (a : Bool) (hc : s.capturing = true) : SampleHandled s a (s.takeSample a) := by
  have f := State.takeSample_sampler s a
  have hn := State.beforeSettle_notices s a
  have hst := State.beforeSettle_store s a
  have hlive : s.sampleCapture.state ≠ .done := by
    unfold State.sampleCapture
    split
    · simp
    · have : s.capture.state ≠ .done := by
        intro e
        simp [State.capturing, CapState.capturing, e] at hc
      split <;> exact this
  have hft : ∀ {u : State} {r : Record}, (s.beforeSettle a).place r = some u →
      u.store.trigger = (s.sampleWriting a).1.store.trigger ∧ u.store.floor = (s.sampleWriting a).1.store.floor := by
    intro u r h
    obtain ⟨_, h2, h3⟩ := State.place_store h
    rw [h2, h3, hst]
    exact ⟨rfl, rfl⟩
  have hstore : (s.takeSample a).store.trigger = (s.sampleWriting a).1.store.trigger
      ∧ (s.takeSample a).store.floor = (s.sampleWriting a).1.store.floor := by
    rcases State.settle_cases (s := s) a with ⟨_, _, _, e, _⟩ | ⟨_, _, e⟩ | ⟨_, _, _, ⟨u, hp, _, e, _⟩ | ⟨_, _, e, _⟩⟩
    · rw [e, hst]; exact ⟨rfl, rfl⟩
    · rw [e, hst]; exact ⟨rfl, rfl⟩
    · rw [e]; exact hft hp
    · rw [e, hst]; exact ⟨rfl, rfl⟩
  have hend : ((s.takeSample a).capture.state ≠ .done ∧ s.takeSample a = s.beforeSettle a)
      ∨ ((s.takeSample a).capture.state = .done ∧ ∃ w, s.takeSample a = (s.beforeSettle a).endCapture w) := by
    rcases State.settle_cases (s := s) a with ⟨_, e, hcap, _⟩ | ⟨_, _, e⟩ | ⟨_, _, e, ⟨u, _, hcap, _⟩ | ⟨_, hcap, _⟩⟩
    · exact Or.inr ⟨by rw [hcap]; rfl, _, e⟩
    · exact Or.inl ⟨by rw [e, State.beforeSettle_capture]; exact hlive, e⟩
    · exact Or.inr ⟨by rw [hcap]; rfl, _, e⟩
    · exact Or.inr ⟨by rw [hcap]; rfl, _, e⟩
  have hnot : (s.takeSample a).orders.notices.triggered = (s.sampleWriting a).1.orders.notices.triggered
      ∧ (s.takeSample a).orders.notices.done =
        (if (s.takeSample a).capture.state = .done then some (s.takeSample a).capture.reason else s.orders.notices.done)
      ∧ (s.takeSample a).orders.notices.decodeLoss = (s.beforeSettle a).orders.notices.decodeLoss := by
    rcases hend with ⟨h1, h2⟩ | ⟨h1, w, h2⟩
    · rw [if_neg h1, h2]
      exact ⟨hn.1, hn.2.1, rfl⟩
    · rw [if_pos h1, h2, State.endCapture_orders, State.endCapture_capture]
      obtain ⟨g1, g2, g3⟩ := NoticeSet.setDone_notices (s.beforeSettle a).orders.notices ((s.beforeSettle a).closeLastRun w).2
      exact ⟨g1.trans hn.1, g2, g3⟩
  refine
    { index := f.1, sample := s.readSample_reads, value := by rw [f.2.1, s.levelsNow_eq],
      read := by rw [f.2.2.2.2.2.2.2.2.2, s.levelsNow_eq], counted := ⟨f.2.2.2.2.2.2.2.1, f.2.2.2.2.2.2.2.2.1⟩, tick := f.2.2.1,
      openRun := ?_, seq := State.takeSample_seq s a, decoderBank := s.decoders.handlesWell _, decoders := ?_, counters := ?_,
      counterBank := s.counters.handlesWell _, restarts := fun b set => b.restartsWell set _, stops := CounterBank.stops,
      streamer := State.takeSample_streamer s a, met := Streamer.receiveAll_meets _ _ _ _, stored := fun hb => State.takeSample_stored a hb,
      trigger := fun hb c e => ?_, noTrigger := fun e => ?_, state := ?_, quiet := fun hb hl => ?_,
      placement := State.takeSample_placement s a, floor := ?_, settings := f.2.2.2.1, record := f.2.2.2.2.1,
      time := State.takeSample_time s a, pfe := State.takeSample_pfe s a, link := State.takeSample_link s a, raised := ?_,
      notCarriedYet := State.takeSample_carriedPart s a, orders := State.takeSample_orders s a, done := hnot.2.1,
      decodeLoss := hnot.2.2.trans hn.2.2, resetHeld := State.takeSample_resetHeld s a,
      freeDraws := State.takeSample_freeDraws s a, pending := State.takeSample_pending s a }
  · rcases hend with ⟨h1, h2⟩ | ⟨h1, w, h2⟩
    · rw [if_neg h1, h2, State.beforeSettle_sampler, State.sampleWriting_openRun]
    · rw [if_pos h1, h2, State.endCapture_sampler]; rfl
  · rcases hend with ⟨h1, h2⟩ | ⟨h1, w, h2⟩
    · rw [if_neg h1, h2, State.beforeSettle_decoders]
    · rw [if_pos h1, h2, State.endCapture_decoders, State.beforeSettle_decoders]
  · dsimp only
    have hk := State.beforeSettle_counters s a
    rcases hend with ⟨h1, h2⟩ | ⟨h1, w, h2⟩
    · rw [if_neg h1, h2]; exact hk
    · rw [if_pos h1, h2, State.endCapture_counters]; exact congrArg CounterBank.stop hk
  · dsimp only
    rw [hstore.1, hnot.1]
    exact (State.sampleWriting_wrote a hb).2 c e
  · rw [hstore.1, hnot.1]
    unfold State.sampleWriting
    rw [e]
    obtain ⟨g1, g2⟩ := State.writeSample_untriggered s.handed s.readSample a s.sampleRun.1
      (s.decoders.copies s.readSample.tick (s.decoders.completed s.readSample)) s.evaluated.2
    rw [g1, g2]
    simp [State.handed]
  · rcases hend with ⟨h1, h2⟩ | ⟨h1, _⟩
    · left; rw [h2, State.beforeSettle_capture]
    · right; exact h1
  · obtain ⟨w, h1, h2, _⟩ := State.takeSample_stored a hb
    have hle := h1.length_le
    have hq : WroteQuietly s (s.takeSample a) := by
      rcases State.settle_cases (s := s) a with ⟨_, _, _, e1, e2, e3⟩ | ⟨_, _, e⟩ | ⟨_, _, _, ⟨u, hp, _, e1, e2, e3⟩ | ⟨_, _, e1, e2, e3⟩⟩
      · have := State.beforeSettle_quiet s a
        unfold WroteQuietly at this ⊢
        rw [e1, e2, e3]; exact this
      · rw [e]; exact State.beforeSettle_quiet s a
      · have := (State.beforeSettle_quiet s a).place hp
        unfold WroteQuietly at this ⊢
        rw [e1, e2, e3]; exact this
      · have := State.beforeSettle_quiet s a
        unfold WroteQuietly at this ⊢
        rw [e1, e2, e3]; exact this
    exact hq.2.2 (by have := h2.1; omega)
  · rw [hstore.2]
    unfold State.sampleWriting
    rw [State.writeSample_floor]
    simp [State.handed]
  · exact State.takeSample_pendingPart s a

/-- A sample taken in a state that differs from `s` in the Sampler's bookkeeping of edges alone is a sample of `s` (R7). -/
theorem State.takeSample_handled {s u : State} (a : Bool) (hc : s.capturing = true) (h : u = { s with sampler := u.sampler })
    (hi : u.sampler.nextIndex = s.sampler.nextIndex) (hs : u.sampler.settings = s.sampler.settings)
    (hr : u.sampler.record = s.sampler.record) (hp : u.sampler.prevValue = s.sampler.prevValue)
    (hm : u.sampler.movedTwice = s.sampler.movedTwice) (hl : u.levelsNow = s.levelsNow) (ho : u.sampler.openRun = s.sampler.openRun)
    (hq : u.sampler.missed = s.sampler.missed) : SampleHandled s a (u.takeSample a) := by
  obtain ⟨p, rfl⟩ : ∃ p, u = { s with sampler := p } := ⟨_, h⟩
  dsimp only at hi hs hr hp hm ho hq
  have htl : State.tickLevels { s with sampler := p } = s.tickLevels := by
    rw [← State.levelsNow_eq, hl, State.levelsNow_eq]
  have hx : State.readSample { s with sampler := p } = s.readSample := by
    unfold State.readSample Sampler.glitchMask
    rw [hl]
    dsimp only
    rw [hp, hi, hs, hm]
    rfl
  have he : State.evaluated { s with sampler := p } = s.evaluated := by
    unfold State.evaluated
    rw [hx]
  have hcause : State.sampleCause { s with sampler := p } = s.sampleCause := by
    unfold State.sampleCause
    rw [he]
  have hrun : State.sampleRun { s with sampler := p } = s.sampleRun := by
    unfold State.sampleRun Sampler.formRun Sampler.newRun
    rw [hx, hcause]
    dsimp only
    rw [ho, hr]
  have hcap : State.sampleCapture { s with sampler := p } = s.sampleCapture := by
    unfold State.sampleCapture
    rw [hcause]
  have hends : State.sampleEnds { s with sampler := p } = s.sampleEnds := by
    unfold State.sampleEnds
    rw [hcap]
  have hbefore : State.writesBeforeTrigger { s with sampler := p } a = s.writesBeforeTrigger a := by
    unfold State.writesBeforeTrigger
    rw [hrun, hx]
    dsimp only
    rw [hq]
  have hwrites : State.sampleWrites { s with sampler := p } a = s.sampleWrites a := by
    unfold State.sampleWrites
    rw [hbefore, hcause, hrun, hends, he]
  have hbounded : s.bounded → State.bounded { s with sampler := p } := by
    unfold State.bounded
    dsimp only
    rw [hq]
    exact id
  have g := State.takeSample_handles (s := { s with sampler := p }) a hc
  obtain ⟨t, ht⟩ : ∃ t, t = State.takeSample { s with sampler := p } a := ⟨_, rfl⟩
  rw [← ht] at g ⊢
  obtain ⟨g1, g2, g3, g4, g5, g6, g7, g8, g9, g10, g11, g12, g13, g14, g15, g16, g17, g18, g19, g20, g21, g22, g23, g24,
    g25, g26, g27, g28, g29, g30, g31, g32, g33, g34, g35, g36⟩ := g
  simp only [hx, he, hcause, hrun, hcap, hends, hbefore, hwrites, htl, hi, hq, hs, hr] at g1 g3 g4 g7 g8 g9 g10 g11 g12 g15 g16 g17 g18 g19 g20 g21 g24 g25 g29 g33
  exact ⟨g1, s.readSample_reads, g3, g4, g5, g6, g7, g8, g9, g10, g11, g12, g13, g14, g15, g16, fun b => g17 (hbounded b),
    fun b => g18 (hbounded b), g19, g20, fun b => g21 (hbounded b), g22, g23, g24, g25, g26, g27, g28, g29, g30, g31, g32,
    g33, g34, g35, g36⟩

end Sys2Proof.Machine
end

