-- ==== Sys2Proof/Laws/Link.lean ====
section
/-! SUPPORT. What a start, an ending and a received post can change. -/

namespace Sys2Proof.Machine

/-- A start changes the link, the notice in flight and the records in flight (R158). -/
theorem State.startPost_frame (s : State) :
    s.startPost = { s with link := s.startPost.link, orders := s.startPost.orders, streamer := s.startPost.streamer } := by
  unfold State.startPost
  split
  · rfl
  · rename_i source _
    split
    · rfl
    · rename_i c hc
      cases source <;> simp only [State.compose, Option.map_eq_some_iff, Option.some.injEq] at hc
      · subst hc; rfl
      · obtain ⟨k, _, rfl⟩ := hc; rfl
      · obtain ⟨k, _, rfl⟩ := hc; rfl
      · obtain ⟨k, _, rfl⟩ := hc; rfl
      · subst hc; rfl
      · obtain ⟨k, _, rfl⟩ := hc; rfl

/-- A start changes no answer, and of the Order Unit nothing but its notice set. -/
theorem State.startPost_orders (s : State) :
    s.startPost.orders = { s.orders with notices := s.startPost.orders.notices } := by
  unfold State.startPost
  split
  · rfl
  · rename_i source _
    split
    · rfl
    · rename_i c hc
      cases source <;> simp only [State.compose, Option.map_eq_some_iff, Option.some.injEq] at hc
      · subst hc; rfl
      · obtain ⟨k, _, rfl⟩ := hc; rfl
      · obtain ⟨k, _, rfl⟩ := hc; rfl
      · obtain ⟨k, _, rfl⟩ := hc; rfl
      · subst hc; rfl
      · obtain ⟨k, _, rfl⟩ := hc; rfl

/-- A start leaves the queue of decode records (R130). -/
theorem State.startPost_queue (s : State) : s.startPost.streamer.queue = s.streamer.queue := by
  unfold State.startPost
  split
  · rfl
  · rename_i source _
    split
    · rfl
    · rename_i c hc
      cases source <;> simp only [State.compose, Option.map_eq_some_iff, Option.some.injEq] at hc
      · subst hc; rfl
      · obtain ⟨k, _, rfl⟩ := hc; rfl
      · obtain ⟨k, _, rfl⟩ := hc; rfl
      · obtain ⟨k, _, rfl⟩ := hc; rfl
      · subst hc; rfl
      · obtain ⟨k, _, rfl⟩ := hc; rfl

/-- The answer list loses its oldest answer (R172). -/
theorem State.answerSent_frame (s : State) :
    s.answerSent =
      { s with orders := { s.orders with answers := s.orders.answers.tail }, readout := s.answerSent.readout } := by
  unfold State.answerSent
  split
  · rename_i h; simp only [h, List.tail_nil]; rw [← h]
  · rename_i h; simp only [h]; rfl

/-- A STREAM post sent in full changes the Streamer, and draws a free value at most (R130, R125). -/
theorem State.streamSent_frame (s : State) :
    s.streamSent = { s with streamer := s.streamSent.streamer, freeDraws := s.streamSent.freeDraws } := by
  unfold State.streamSent
  dsimp only
  split <;> rfl

/-- A record that meets the queue again keeps it within its 64 places (R123). -/
theorem Streamer.retry_bound (q : Streamer) (now : Nat) (x : LostRecord) (h : q.queue.length ≤ 64) :
    (q.retry now x).queue.length ≤ 64 := by
  unfold Streamer.retry
  split
  · rename_i hl
    simp only [Config.queueCapacity] at hl
    simp only [Streamer.join, List.length_append, List.length_singleton]
    omega
  · exact h

/-- A STREAM post sent in full keeps the queue within its 64 places (R123, R125). -/
theorem State.streamSent_bound (s : State) (h : s.streamer.queue.length ≤ 64) :
    s.streamSent.streamer.queue.length ≤ 64 := by
  have hs : (s.streamer.postSent s.time.elapsed).queue.length ≤ 64 := by
    simp only [Streamer.postSent, Streamer.judgeAge, List.length_drop]
    omega
  have hf : ∀ (l : List LostRecord) (q : Streamer), q.queue.length ≤ 64 →
      (l.foldl (fun st x => st.retry s.time.elapsed x) q).queue.length ≤ 64 := by
    intro l
    induction l with
    | nil => exact fun _ hq => hq
    | cons x l ih => exact fun q hq => ih _ (Streamer.retry_bound q _ x hq)
  unfold State.streamSent
  dsimp only
  split
  · exact hs
  · exact hf _ _ hs

/-- A post sent in full changes its own source, and draws a free value at most (R159). -/
theorem State.sourceSent_frame (s : State) (src : Source) :
    s.sourceSent src =
      { s with
        link := (s.sourceSent src).link, orders := (s.sourceSent src).orders, readout := (s.sourceSent src).readout,
        columns := (s.sourceSent src).columns, streamer := (s.sourceSent src).streamer,
        freeDraws := (s.sourceSent src).freeDraws } := by
  cases src
  · rfl
  · rfl
  · show s.answerSent = _
    simp only [State.sourceSent]
    rw [State.answerSent_frame]
  · show s.columnsSent = _
    simp only [State.sourceSent]
    rw [State.columnsSent_frame]
  · show s.streamSent = _
    simp only [State.sourceSent]
    rw [State.streamSent_frame]
  · rfl

/-- A withdrawn or abandoned post changes its own source alone (R159). -/
theorem State.sourceReturned_frame (s : State) (src : Source) :
    s.sourceReturned src =
      { s with
        link := (s.sourceReturned src).link, orders := (s.sourceReturned src).orders,
        streamer := (s.sourceReturned src).streamer } := by
  cases src <;> first | rfl | skip
  show s.streamReturned = _
  simp only [State.sourceReturned]
  unfold State.streamReturned
  dsimp only
  split <;> rfl

/-- A withdrawn or abandoned post leaves every answer. -/
theorem State.sourceReturned_answers (s : State) (src : Source) :
    (s.sourceReturned src).orders.answers = s.orders.answers := by
  cases src <;> first | rfl | skip
  unfold State.sourceReturned State.streamReturned
  dsimp only
  split <;> rfl

/-- A withdrawn or abandoned post makes the queue no longer (R130, R132). -/
theorem State.sourceReturned_queue (s : State) (src : Source) :
    (s.sourceReturned src).streamer.queue.length ≤ s.streamer.queue.length := by
  cases src <;> first | exact Nat.le_refl _ | skip
  have h : (s.sourceReturned .stream).streamer = s.streamer.postReturned s.time.elapsed := by
    unfold State.sourceReturned State.streamReturned
    dsimp only
    split <;> rfl
  rw [h]
  unfold Streamer.postReturned Streamer.judgeAge
  split
  · simp
  · exact Nat.le_refl _

/-- A collision changes the link, the Order Unit and the Streamer alone (R160, R161). -/
theorem State.collide_frame (s : State) (f : Flight) :
    s.collide f =
      { s with link := (s.collide f).link, orders := (s.collide f).orders, streamer := (s.collide f).streamer } := by
  have h := State.sourceReturned_frame (s.withLink s.link.landed) f.source
  unfold State.collide
  dsimp only
  split
  · rw [h]; rfl
  · unfold State.enterLinkFault State.withNotices
    rw [h]; rfl

/-- A receipt keeps the placement list within its eight places (R22). -/
theorem mergeLast_length (r : SignalEntry) : ∀ l : List SignalEntry, (mergeLast r l).length = l.length
  | [] => rfl
  | [_] => rfl
  | _ :: e :: rest => by
    simp only [mergeLast, List.length_cons]
    rw [mergeLast_length r (e :: rest)]
    rfl

theorem Store.addReceipt_bound (st : Store) (r : SignalEntry) (h : st.placement.length ≤ 8) :
    (st.addReceipt r).placement.length ≤ 8 := by
  unfold Store.addReceipt
  dsimp only
  split
  · rename_i hl
    simp only [Config.placementCapacity] at hl
    simp only [List.length_append, List.length_singleton]; omega
  · rw [mergeLast_length]; exact h

end Sys2Proof.Machine
end

