-- ==== Sys2Proof/Laws/Orders.lean ====
section
/-! SUPPORT. What taking an order does, said once for every order. -/

namespace Sys2Proof.Machine

/-- Hearing a post ends the idle line and changes nothing else. -/
theorem State.hearPost_eq (s : State) : s.hearPost = { s with link := s.heardLink } := rfl

/-- Outside STANDBY nothing is left. -/
theorem CaptureControl.leaveStandby_eq {c : CaptureControl} (h : c.state ≠ .standby) : c.leaveStandby = c := by
  unfold CaptureControl.leaveStandby
  rw [if_neg h]

/-- Outside STANDBY the return from standby does nothing. -/
theorem State.leaveStandby_eq {s : State} (h : s.capture.state ≠ .standby) : s.leaveStandby = s := by
  unfold State.leaveStandby
  rw [CaptureControl.leaveStandby_eq h]
  rfl

/-- The answer that a settled verdict adds (R172, R173). -/
theorem Judged.settle_eq (j : Judged) (code : Byte) (o : OrderPost) :
    j.settle code o =
      { j.state with
        orders :=
          { j.state.orders with
            answers := j.state.answersWith o code j.status j.index j.result j.startsRead } } := by
  unfold Judged.settle State.answersWith
  split <;> rfl

/-- A settled verdict changes the answer list alone. -/
@[simp] theorem Judged.settle_pending (j : Judged) (code : Byte) (o : OrderPost) :
    (j.settle code o).pending = j.state.pending := by
  rw [Judged.settle_eq]

/-- An order that is ready is judged on the state in which its post was heard (R171). -/
theorem State.takeOrder_ready {s : State} {o : OrderPost} (h : s.orderReady o) (code : Byte) (fits : Bool)
    (judge : State → Judged) :
    s.takeOrder code o fits judge =
      (if fits then judge { s with link := s.heardLink }
       else State.refuse { s with link := s.heardLink } .length).settle code o := by
  obtain ⟨h1, h2, h3⟩ := h
  unfold State.takeOrder State.dispatchOrder
  rw [if_pos h1, State.hearPost_eq]
  rw [State.leaveStandby_eq (s := { s with link := s.heardLink }) h2]
  rw [if_neg]
  simp only [State.answersFull, Bool.and_eq_true, Bool.not_eq_true', decide_eq_true_eq, not_and]
  intro h4
  rcases h3 with h3 | h3
  · rw [h3] at h4; cases h4
  · simp only [Config.answerCapacity]; omega

/-- A refusal of a ready order changes nothing but the answer list (R174). -/
theorem State.refuse_settle (s : State) (why : Status) (code : Byte) (o : OrderPost) :
    (State.refuse { s with link := s.heardLink } why).settle code o = s.onlyAnswered o code why 0 := by
  rw [Judged.settle_eq]
  rfl

/-- A ready order of the wrong length is answered LENGTH (R171 step 4). -/
theorem State.takeOrder_length {s : State} {o : OrderPost} (h : s.orderReady o) (code : Byte) (judge : State → Judged) :
    s.takeOrder code o false judge = s.onlyAnswered o code .length 0 := by
  rw [State.takeOrder_ready h]
  exact State.refuse_settle s .length code o

/-- A ready order that its rule refuses changes nothing but the answer list (R174). -/
theorem State.takeOrder_refused {s : State} {o : OrderPost} (h : s.orderReady o) (code : Byte) (judge : State → Judged)
    (why : Status) (hj : judge { s with link := s.heardLink } = State.refuse { s with link := s.heardLink } why) :
    s.takeOrder code o true judge = s.onlyAnswered o code why 0 := by
  rw [State.takeOrder_ready h, if_pos rfl, hj]
  exact State.refuse_settle s why code o

/-- The queue of commands is none of an order's concerns when it is none of its judge's. -/
theorem State.takeOrder_pending (s : State) (code : Byte) (o : OrderPost) (fits : Bool) (judge : State → Judged)
    (hj : ∀ u, (judge u).state.pending = u.pending) : (s.takeOrder code o fits judge).pending = s.pending := by
  unfold State.takeOrder State.dispatchOrder
  split
  · split
    · rfl
    · split
      · rw [Judged.settle_pending, hj]; rfl
      · rw [Judged.settle_pending]; rfl
  · rfl

end Sys2Proof.Machine
end

