-- ==== Sys2Proof/Laws/Bounded.lean ====
section
/-! SUPPORT. The shared operations keep the bounds of the node's lists and counts. -/

namespace Sys2Proof.Machine

/-- A state that differs in nothing the bounds speak of is bounded too. -/
theorem State.bounded_of_same {s t : State} (h : s.bounded) (e1 : t.time = s.time) (e2 : t.store = s.store)
    (e3 : t.sampler.missed = s.sampler.missed) (e4 : t.streamer.queue.length ≤ s.streamer.queue.length)
    (e5 : t.orders.answers = s.orders.answers) (e6 : t.pfe = s.pfe) (e7 : t.capture = s.capture) : t.bounded := by
  obtain ⟨h1, h2, h3, h4, h5, h6, h7, h8, h9, h10, h11⟩ := h
  unfold State.bounded
  rw [e1, e2, e3, e5, e6, e7]
  exact ⟨h1, h2, h3, h4, h5, h6, h7, by omega, h9, h10, h11⟩

/-- The return from standby keeps the bounds and leaves the node out of STANDBY (R54). -/
theorem State.leaveStandby_bounded {s : State} (h : s.bounded) :
    s.leaveStandby.bounded ∧ s.leaveStandby.capture.state ≠ .standby := by
  obtain ⟨h1, h2, h3, h4, h5, h6, h7, h8, h9, h10, h11⟩ := h
  have key : s.leaveStandby.capture.standbyConsistent ∧ s.leaveStandby.capture.state ≠ .standby
      ∧ (s.leaveStandby.capture.state = .armed → s.capture.state = .armed) := by
    simp only [State.leaveStandby, State.withCapture_capture, CaptureControl.leaveStandby]
    by_cases g : s.capture.state = .standby
    · rw [if_pos g]
      simp only [CaptureControl.standbyConsistent, g, if_true] at h11
      rcases h11 with e | e <;> simp [CaptureControl.standbyConsistent, e]
    · rw [if_neg g]
      exact ⟨h11, g, id⟩
  exact ⟨⟨h1, h2, h3, h4, fun e => h5 (key.2.2 e), h6, h7, h8, h9, h10, key.1⟩, key.2.1⟩

/-- What a judge must do for its order to keep the bounds. -/
def JudgeKeepsBounds (judge : State → Judged) : Prop :=
  ∀ u : State, u.bounded → u.capture.state ≠ .standby →
    (judge u).state.bounded ∧ (judge u).state.orders.answers = u.orders.answers

/-- A settled verdict keeps the bounds when its answer finds place. -/
theorem Judged.settle_bounded {u : State} {j : Judged} {code : Byte} {o : OrderPost} (hj : j.state.bounded)
    (ha : j.state.orders.answers = u.orders.answers) (hf : (!o.toAll && u.answersFull) = false) :
    (j.settle code o).bounded := by
  rw [Judged.settle_eq]
  obtain ⟨h1, h2, h3, h4, h5, h6, h7, h8, h9, h10, h11⟩ := hj
  refine ⟨h1, h2, h3, h4, h5, h6, h7, h8, ?_, h10, h11⟩
  unfold State.answersWith
  dsimp only
  split
  · exact h9
  · rename_i g
    simp only [g, Bool.not_false, State.answersFull, Config.answerCapacity, Bool.true_and, decide_eq_false_iff_not] at hf
    simp only [List.length_append, List.length_singleton, ha]
    omega

/-- An order keeps the bounds when its judge does. -/
theorem State.takeOrder_bounded {s : State} (h : s.bounded) (code : Byte) (o : OrderPost) (fits : Bool)
    (judge : State → Judged) (hj : JudgeKeepsBounds judge) : (s.takeOrder code o fits judge).bounded := by
  unfold State.takeOrder
  split
  · have hl := State.leaveStandby_bounded (s := s.hearPost) h
    unfold State.dispatchOrder
    split
    · exact hl.1
    · rename_i g
      have g' : (!o.toAll && s.hearPost.leaveStandby.answersFull) = false := by simpa using g
      split
      · obtain ⟨a, b⟩ := hj _ hl.1 hl.2
        exact Judged.settle_bounded a b g'
      · exact Judged.settle_bounded (u := s.hearPost.leaveStandby) hl.1 rfl g'
  · exact h

/-- A running capture is not in STANDBY. -/
theorem State.capturing_standby {s : State} (h : s.capturing = true) : s.capture.state ≠ .standby := by
  intro g
  simp [State.capturing, CapState.capturing, g] at h

/-- Closing the last run leaves the pre-trigger floor. -/
theorem State.closeLastRun_floor (s : State) (w : Reason) : (s.closeLastRun w).1.store.floor = s.store.floor := by
  unfold State.closeLastRun
  repeat' split
  all_goals first | rfl | exact (State.place_store (by assumption)).2.1

/-- A capture end keeps the bounds (R50). -/
theorem State.endCapture_bounded {s : State} (h : s.bounded) (hc : s.capturing = true) (w : Reason) :
    (s.endCapture w).bounded := by
  obtain ⟨h1, h2, h3, h4, _, _, h7, h8, h9, h10, h11⟩ := h
  have hb := State.closeLastRun_bounds s w h2 h3
  unfold State.bounded
  simp only [State.endCapture_capture, State.endCapture_store, State.endCapture_sampler, State.endCapture_time,
    State.endCapture_pfe, State.endCapture_streamer, State.endCapture_orders]
  refine ⟨h1, hb.1, hb.2, by rw [State.closeLastRun_floor]; exact h4, by simp [CaptureControl.finish], by simp, h7, h8, h9,
    h10, ?_⟩
  simp only [CaptureControl.standbyConsistent, State.capturing_standby hc, if_false] at h11
  simp [CaptureControl.standbyConsistent, CaptureControl.finish, h11]

/-- A discard shortens the queue (R132). -/
theorem Streamer.discard_bound (q : Streamer) (n : Nat) (h : q.queue.length ≤ 64) :
    (q.discard n).queue.length ≤ 64 := by
  simp only [Streamer.discard, Streamer.judgeAge, List.length_take]
  omega

/-- A discard of the decode queue keeps the bounds and the answers. -/
theorem State.discardQueue_bounded {s : State} (h : s.bounded) :
    s.discardQueue.bounded ∧ s.discardQueue.orders.answers = s.orders.answers := by
  rw [State.discardQueue_eq]
  obtain ⟨h1, h2, h3, h4, h5, h6, h7, h8, h9, h10, h11⟩ := h
  refine ⟨⟨h1, h2, h3, h4, h5, h6, h7, Streamer.discard_bound _ _ h8, ?_, h10, h11⟩, ?_⟩ <;> dsimp only <;> split <;>
    first | exact h9 | rfl

/-- Arming keeps the bounds and the answers (R43). -/
theorem State.armEffects_bounded {s : State} (h : s.bounded) (hs : s.capture.state ≠ .standby) :
    s.armEffects.bounded ∧ s.armEffects.orders.answers = s.orders.answers := by
  have ho : s.armEffects.orders.answers = s.orders.answers := by
    simp only [State.armEffects, State.discardQueue_eq]
    simp
    split <;> rfl
  obtain ⟨h1, _, _, h4, _, _, _, h8, h9, h10, h11⟩ := h
  refine ⟨?_, ho⟩
  unfold State.bounded
  rw [ho]
  simp only [State.armEffects_time, State.armEffects_store, State.armEffects_sampler, State.armEffects_streamer,
    State.armEffects_pfe, State.armEffects_capture]
  simp only [CaptureControl.standbyConsistent, hs, if_false] at h11
  exact ⟨h1, by simp [Store.emptied, Store.reset], by simp [Store.emptied, Store.reset],
    by simpa [Store.emptied, Store.reset] using h4, by simp [Store.emptied, Store.reset],
    by simp [Store.emptied, Store.reset], by simp [Sampler.arm, Sampler.reset], Streamer.discard_bound _ _ h8, h9, h10,
    by simp [CaptureControl.standbyConsistent, CaptureControl.arm, h11]⟩

/-- A sample of a running capture keeps the bounds (R7, R20, R123). -/
theorem State.takeSample_bounded {s : State} (h : s.bounded) (hc : s.capturing = true) (a : Bool) :
    (s.takeSample a).bounded := by
  have g := State.takeSample_handles a hc
  obtain ⟨h1, h2, h3, h4, h5, h6, h7, h8, h9, h10, h11⟩ := h
  have hb := State.takeSample_bounds s a ⟨h2, h3⟩
  have hf := State.takeSample_sampler s a
  have hcap := State.takeSample_capture s a hc
  refine ⟨by simpa using h1, hb.1, hb.2, by rw [g.floor]; exact h4, ?_, by rw [g.placement]; simp, ?_, ?_, ?_,
    by simpa using h10, ?_⟩
  · intro e
    have hs : s.sampleCapture.state = .armed := by
      rcases g.state with k | k
      · rw [← k]; exact e
      · rw [e] at k; cases k
    have hn : s.sampleCause = none := by
      cases hc : s.sampleCause with
      | none => rfl
      | some c => simp [State.sampleCapture, hc] at hs
    rw [(g.noTrigger hn).1]
    apply h5
    unfold State.sampleCapture at hs
    rw [hn] at hs
    dsimp only [Option.isSome_none] at hs
    rw [if_neg (by simp)] at hs
    split at hs <;> exact hs
  · have := hf.2.2.2.2.2.2.1
    omega
  · rw [State.takeSample_streamer]
    exact Streamer.receiveAll_bound _ _ _ _ h8
  · rw [State.takeSample_orders]
    exact h9
  · simp only [CaptureControl.standbyConsistent, State.capturing_standby hc, if_false] at h11
    simp [CaptureControl.standbyConsistent, hcap.1, hcap.2.2.1, h11]

/-- Every item at its reset value is within the bounds (R182). -/
theorem State.resetNode_bounded (s : State) (h : s.time.tick ≤ 2 ^ 48 - 1) : s.resetNode.bounded := by
  refine ⟨h, ?_⟩
  simp [State.resetNode, State.reset, Store.reset, Sampler.reset, Streamer.reset, OrderUnit.reset, Pfe.reset,
    CaptureControl.reset, CaptureControl.standbyConsistent]

end Sys2Proof.Machine
end

