-- ==== Sys2Proof/Tests/Slice0.lean ====
section
/-! SUPPORT. Own tests: ill-formed commands refused, one step on small states, and a witness for the premises of every statement. -/

open Sys2Proof Sys2Proof.Machine

set_option maxRecDepth 20000

namespace Sys2Proof.Tests

/-! ## WellFormed: each check refuses an ill-formed term -/

/-- An order of station 9 to the node alone. -/
def orderOf (params : List Byte) : OrderPost := ⟨9, false, 0x5A, params⟩

/-- The same order to all stations. -/
def broadcastOf (params : List Byte) : OrderPost := ⟨9, true, 0x5A, params⟩

theorem test_wf_order : (Instr.arm (orderOf (List.replicate 126 0))).wellFormed = true
    ∧ (Instr.arm (orderOf (List.replicate 127 0))).wellFormed = false := by decide

theorem test_wf_streamOn : (Instr.streamOn (orderOf [1, 0, 8, 10])).wellFormed = true
    ∧ (Instr.streamOn (orderOf [0, 0, 8, 10])).wellFormed = false
    ∧ (Instr.streamOn (orderOf (List.replicate 127 1))).wellFormed = false := by decide

theorem test_wf_streamOff : (Instr.streamOff (orderOf [0, 0, 8, 10])).wellFormed = true
    ∧ (Instr.streamOff (orderOf [1, 0, 8, 10])).wellFormed = false
    ∧ (Instr.streamOff (orderOf (List.replicate 127 0))).wellFormed = false := by decide

theorem test_wf_unknownOrder : (Instr.unknownOrder 9 false [0x16, 0]).wellFormed = true
    ∧ (Instr.unknownOrder 9 false [0x15, 0]).wellFormed = false
    ∧ (Instr.unknownOrder 9 false (List.replicate 129 0x16)).wellFormed = false := by decide

theorem test_wf_postDiscarded : (Instr.postDiscarded (List.replicate 260 0)).wellFormed = true
    ∧ (Instr.postDiscarded (List.replicate 261 0)).wellFormed = false := by decide

theorem test_wf_transition : (Instr.transition 0 30000).wellFormed = true
    ∧ (Instr.transition 0 30001).wellFormed = false ∧ (Instr.transition 0 (-30001)).wellFormed = false := by decide

/-! ## Small states -/

/-- A node that runs on the link. -/
def running : State := { State.reset with link := { State.reset.link with state := .running } }

/-- A node in a capture state. -/
def inState (c : CapState) : State := { running with capture := { running.capture with state := c } }

/-- A running node armed at tick 0 under its reset settings. -/
def armed : State := running.armEffects

/-! ## Posts and their check -/

theorem test_check_of_digits :
    postCheck [0x31, 0x32, 0x33, 0x34, 0x35, 0x36, 0x37, 0x38, 0x39] = 0x29B1 := by decide

/-- What a command leaves of a state, read by a function. -/
def after {α : Type} (i : Instr) (s : State) (f : State → α) : Option α :=
  match exec i s with
  | .next t => some (f t)
  | _ => none

/-- What one step leaves of a state, read by a function. -/
def stepped {α : Type} (s : State) (f : State → α) : Option α :=
  match step s with
  | .next t => some (f t)
  | _ => none

theorem test_framed_arm_is_heard :
    after (.postDiscarded (framePost 3 9 (some 0) [0x08, 0x5A])) running id = after (.arm (orderOf [])) running id := by
  decide

theorem test_bad_check_is_discarded :
    after (.postDiscarded ((framePost 3 9 (some 0) [0x08, 0x5A]).dropLast ++ [0])) running id = some running := by
  decide

/-! ## Orders -/

theorem test_threshold_clamped :
    after (.configureChannels (orderOf [0xFF, 0xFF, 0, 0, 1, 0x01, 0, 0, 0, 0, 0, 0, 0])) running
      (fun t => (t.pfe.thresholds, t.orders.answers.map Answer.status)) = some (⟨240, 66, 66, 66⟩, [.clamped]) := by decide

/-- The threshold byte order and sign of R170: FF10h is -240. -/
theorem test_threshold_negative :
    after (.configureChannels (orderOf [0xFF, 0xFF, 0, 0, 8, 0, 0, 0, 0, 0, 0, 0xFF, 0x10])) running
      (fun t => (t.pfe.thresholds, t.orders.answers.map Answer.status)) = some (⟨66, 66, 66, -240⟩, [.ok]) := by decide

theorem test_sampling_zero_divisor :
    after (.setSampling (orderOf [0, 0, 0, 15, 0, 0x40, 1, 0, 3])) running
      (fun t => (t.sampler.settings.divisor, t.sampler.settings.tdFactor, t.sampler.settings.tdMultiplier,
        t.orders.answers.map Answer.status)) = some (65536, 2, 1000, [.clamped]) := by decide

theorem test_qualifier_is_clock :
    after (.setSampling (orderOf [0, 0, 1, 15, 0, 0x8F, 0, 0, 0])) running
      (fun t => (t.sampler.settings, t.orders.answers.map Answer.status)) = some (.reset, [.range]) := by decide

theorem test_counter_cascade_of_low :
    after (.setCounter (orderOf [0, 4, 0, 0, 0, 0, 0, 0, 0, 0])) running
      (fun t => (t.counters.cascade01, t.orders.answers.map Answer.status)) = some (false, [.range]) := by decide

theorem test_decoder_async :
    after (.setDecoder (orderOf [3, 1, 3, 7, 1, 8, 1, 2, 0, 0, 0, 160])) running
      (fun t => (t.decoders.slots.get 3, t.orders.answers.map Answer.status))
      = some (⟨.async ⟨7, true, 8, .even, .two, false, 160⟩, true, true, .stopped, false, none⟩, [.ok]) := by decide

theorem test_arm_default_program :
    after (.arm (orderOf [])) running (fun t => (t.capture.state, t.orders.reportStation)) = some (.armed, some 9) := by
  decide

theorem test_arm_broadcast_is_not_answered :
    after (.arm (broadcastOf [])) running (fun t => (t.capture.state, t.orders.answers)) = some (.armed, []) := by decide

theorem test_arm_async_in_state_mode :
    after (.arm (orderOf []))
      { running with
        sampler := { running.sampler with settings := { running.sampler.settings with mode := .state } }
        decoders := { running.decoders with
          slots := running.decoders.slots.set 0 ⟨.async ⟨7, true, 8, .even, .two, false, 160⟩, true, true, .stopped, false, none⟩ } }
      (fun t => (t.capture.state, t.orders.answers.map (fun a => (a.status, a.index)))) = some (.idle, [(.conflict, 1)]) := by
  decide

/-- A load of one stage, ALWAYS with trigger: 10h, N 0, no raise, no restart, then the condition; and its check byte. -/
def oneStageImage : List Byte := [0x00, 0x10, 0x00, 0x00, 0x00, 0x00, 0x00, 0xF0]

/-- A running node with a load of that image begun by station 9. -/
def loading : State := { running with seq := { running.seq with load := some ⟨9, 8, 1, []⟩ } }

theorem test_load_activates :
    after (.loadPart (orderOf ([0, 8] ++ oneStageImage))) loading
      (fun t => (t.orders.answers.map Answer.status, t.seq.load, t.seq.program == defaultProgram, t.seq.isDefault))
      = some ([.ok], none, true, false) := by decide

theorem test_load_sum_fails :
    after (.loadPart (orderOf ([0, 8] ++ oneStageImage.dropLast ++ [0xF1]))) loading
      (fun t => (t.orders.answers.map Answer.status, t.seq.load, t.seq.isDefault)) = some ([.check], none, true) := by
  decide

theorem test_read_of_empty_store :
    after (.readRecords (orderOf [1, 0, 0, 0, 0, 0, 0, 1])) running
      (fun t => (t.readout, t.orders.answers.map Answer.status)) = some (.free, [.range]) := by decide

/-! ## Samples, counters, link -/

theorem test_first_sample_triggers :
    after .sample armed (fun t => (t.capture.state, t.capture.countdown, t.store.records, t.store.trigger))
      = some (.triggered, 65536, [.trigger 0 (.stage 0 .primary)], some ⟨0, 0⟩) := by decide

theorem test_second_sample_extends :
    after .sample { armed with
        capture := { armed.capture with state := .triggered, countdown := 2 }
        time := ⟨1, 1⟩
        sampler := { armed.sampler with
          openRun := some ⟨0, 0, 0, 1, none⟩, nextIndex := 1, prevValue := some 0, lastSampleTick := some 0 } }
      (fun t => (t.sampler.openRun, t.capture.countdown, t.capture.state))
      = some (some ⟨0, 0, 0, 2, none⟩, 1, .triggered) := by decide

theorem test_empty_queue_passes_a_tick :
    stepped running (fun t => (t.time, t == { running with time := ⟨1, 1⟩ })) = some (⟨1, 1⟩, true) := by decide

theorem test_empty_queue_samples_when_armed :
    stepped armed (fun t => (t.time, t.sampler.nextIndex)) = some (⟨0, 0⟩, 1) := by decide

theorem test_transition_is_activity :
    after (.transition 5 3000) running (fun t => (t.pfe.activity, t.pfe.levels)) = some (0x20, 0x20) := by decide

theorem test_expiry_at_reload :
    after (.counterExpiry 2)
      { armed with
        time := ⟨32, 32⟩
        counters := armed.counters.update 2 (fun c =>
          { c with value := 1, settings := { c.settings with mode := .count, source := .tick16, reload := 2 } }) }
      (fun t => ((t.counters.k.get 2).value, (t.counters.k.get 2).expired)) = some (0, true) := by decide

theorem test_station_15_is_14 :
    after (.resetPinRelease 15 3) { State.reset with resetHeld := true }
      (fun t => (t.link.strapReading, t.link.station, t.link.rate)) = some (15, 14, 3) := by decide

theorem test_second_collision_is_a_fault :
    after .collision
      { running with
        time := ⟨0, 640⟩
        link := { running.link with flight := some ⟨.answer, [0, 0, 0, 0, 0], 0⟩, collisions := 1 } }
      (fun t => (t.link.state, t.orders.fault)) = some (.linkFault, some ⟨0, 4, .idle, 0, false⟩) := by decide

theorem test_present_post :
    after .postStart { running with link := { running.link with idleSince := some 0, offered := [.notice] } }
      (fun t => t.link.flight.map (fun f => (f.source, f.bytes.take 3))) = some (some (.notice, [0x41, 0x0F, 6])) := by decide

/-! ## Witnesses: states and operands that meet the premises of the statements, clause by clause -/

theorem ready (p : List Byte) : running.orderReady (orderOf p) := ⟨rfl, by decide, Or.inr (by decide)⟩

theorem ready_in (c : CapState) (h : c ≠ .standby) (p : List Byte) : (inState c).orderReady (orderOf p) :=
  ⟨rfl, h, Or.inr (show 0 < 4 by decide)⟩

/-- A node with as many answers waiting as given. -/
def answering (n : Nat) : State :=
  { running with orders := { running.orders with answers := List.replicate n ⟨9, 0x12, 0, .ok, 0, [], false⟩ } }

theorem ready_with_three_answers (p : List Byte) : (answering 3).orderReady (orderOf p) :=
  ⟨rfl, by decide, Or.inr (by decide)⟩

theorem ready_to_all_with_four (p : List Byte) : (answering 4).orderReady (broadcastOf p) :=
  ⟨rfl, by decide, Or.inl rfl⟩

/-- A node in STANDBY that returns to a state. -/
def asleep (c : CapState) (wakeArm : Bool) : State :=
  { running with
    capture := { running.capture with state := .standby, returnState := some c, wakeArm := wakeArm }
    pfe := { running.pfe with wakeSet := [⟨15, .rising⟩] } }

/-- A node whose reset pin is held low. -/
def held : State := { State.reset with resetHeld := true }

theorem witness_StepRunsTheFrontCommand :
    ({ running with pending := [.sample, .depth] } : State).pending = Instr.sample :: [.depth] := rfl

theorem witness_EmptyQueueTakesADueEventOrATick :
    (armed.pending = [] ∧ armed.dueEvent = some .sample)
      ∧ (running.pending = [] ∧ running.dueEvent = none ∧ running.sampler.hold = none
        ∧ ∀ k, (running.counters.k.get k).gateDue = false)
      ∧ (held.pending = [] ∧ held.dueEvent = none ∧ held.resetHeld = true)
      ∧ ({ running with time := ⟨2 ^ 48 - 1, 0⟩ } : State).dueEvent = none := by decide

/-- A tick that passes on an idle line offers what is ready; the next step starts it. -/
theorem test_idle_line_starts_a_ready_post :
    (let s := { running with link := { running.link with idleSince := some 0 } };
      s.pending = [] ∧ s.dueEvent = none ∧ s.link.idleSince ≠ none ∧ s.resetHeld = false
        ∧ stepped s (fun t => t.link.offered) = some [.notice])
      ∧ (let s := { running with time := ⟨0, 64⟩, link := { running.link with idleSince := some 0, offered := [.notice] } };
        s.dueEvent = some .postStart
          ∧ stepped s (fun t => t.link.flight.map Flight.source) = some (some .notice)) := by decide

theorem witness_UnheardCommandsChangeNothing :
    (held.resetHeld = true ∧ held.link.flight = none ∧ actsInReset (.mark 9 0) = false)
      ∧ State.reset.link.state = .joining ∧ isPost (.reset (orderOf [])) = true := by decide

theorem witness_OrderEndsStandby :
    (isOrder (.abort (orderOf [])) = true ∧ (asleep .done false).receives = true
        ∧ (asleep .done false).capture.state = .standby)
      ∧ (asleep .done false).capture.standbyConsistent ∧ (asleep .idle true).capture.standbyConsistent :=
  ⟨by decide, by unfold CaptureControl.standbyConsistent; decide, by unfold CaptureControl.standbyConsistent; decide⟩

theorem witness_FullAnswerListTurnsOrdersAway :
    turnedAway (.query (orderOf [0])) = some false ∧ turnedAway (.unknownOrder 9 false []) = some false
      ∧ (answering 4).receives = true ∧ (answering 4).capture.state ≠ .standby
      ∧ 4 ≤ (answering 4).orders.answers.length := by decide

theorem witness_WrongLengthIsAnsweredLength :
    fixedLength (.query (orderOf [])) = some (0x12, 1, orderOf []) ∧ (orderOf []).params.length ≠ 1
      ∧ fixedLength (.arm (orderOf [0])) = some (0x08, 0, orderOf [0]) ∧ (orderOf [0]).params.length ≠ 0
      ∧ fixedLength (.reset (orderOf [0])) = some (0x15, 0, orderOf [0]) := by decide

theorem witness_UnknownOrderIsAnsweredUnknown :
    namesOrder 0x00 = false ∧ namesOrder 0x16 = false ∧ running.receives = true
      ∧ running.capture.state ≠ .standby ∧ ([0x22] : List Byte).length < 2 := by decide

theorem witness_SettingOrdersAreRefusedInCapture :
    (inState .armed).capturing = true ∧ (inState .triggered).capturing = true
      ∧ (orderOf (List.replicate 13 0)).params.length = 13
      ∧ decoderLength (paramNat (orderOf [0, 0, 0]) 3) = some (orderOf [0, 0, 0]).params.length
      ∧ paramNat (orderOf ([0, 16] ++ List.replicate 16 0)) 3 ≤ 16
      ∧ (orderOf ([0, 16] ++ List.replicate 16 0)).params.length
        = 2 + paramNat (orderOf ([0, 16] ++ List.replicate 16 0)) 3 := by decide

theorem witness_ConfigureChannelsTaken :
    running.capturing = false
      ∧ (let o := orderOf [0, 0, 0, 0, 15, 0, 0, 0, 0, 0, 0, 0, 0]; o.params.length = 13 ∧ paramNat o 6 < 16)
      ∧ (let o := orderOf [0, 0, 0, 0, 16, 0, 0, 0, 0, 0, 0, 0, 0]; o.params.length = 13 ∧ 16 ≤ paramNat o 6) := by
  decide

theorem witness_SetSamplingTaken :
    (orderOf [0, 0, 0, 0, 0, 0, 0, 0, 0]).params.length = 9 ∧ samplingFits (orderOf [0, 0, 0, 0, 0, 0, 0, 0, 0])
      ∧ samplingFits (orderOf [1, 1, 0, 15, 2, 0xCE, 1, 1, 3]) ∧ samplingFits (orderOf [1, 0, 1, 15, 2, 0x0F, 2, 15, 3])
      ∧ ¬samplingFits (orderOf [0, 0, 1, 15, 0, 0x8F, 0, 0, 0]) ∧ ¬samplingFits (orderOf [0, 0, 1, 16, 0, 0, 0, 0, 0]) := by
  unfold samplingFits
  refine ⟨?_, ?_, ?_, ?_, ?_, ?_⟩ <;> decide

theorem witness_SetCaptureTaken :
    (orderOf [0, 0, 0xFF, 0xFF, 0, 0, 0, 0, 0, 0]).params.length = 10
      ∧ paramField (orderOf [0, 0, 0xFF, 0xFF, 0, 0, 0, 0, 0, 0]) 2 4 = 65535
      ∧ paramField (orderOf [0, 1, 0, 0, 0, 0, 0, 0, 0, 0]) 2 4 = 65536
      ∧ (inState .triggered).capturing = true ∧ (asleep .done false).receives = true
      ∧ (asleep .done false).capture.state = .standby := by decide

theorem witness_SetCounterTaken :
    (orderOf [0, 0, 0, 0, 0, 0, 0, 0, 0, 0x80]).params.length = 10 ∧ counterFits (orderOf [0, 0, 0, 0, 0, 0, 0, 0, 0, 0x80])
      ∧ counterFits (orderOf [2, 3, 5, 15, 2, 15, 2, 0xFF, 0xFF, 0x92])
      ∧ counterFits (orderOf [3, 4, 5, 15, 2, 15, 2, 0, 1, 0x12])
      ∧ ¬counterFits (orderOf [0, 4, 0, 0, 0, 0, 0, 0, 0, 0]) ∧ ¬counterFits (orderOf [1, 0, 0, 0, 0, 0, 0, 0, 0, 0x80]) := by
  unfold counterFits
  refine ⟨?_, ?_, ?_, ?_, ?_, ?_⟩ <;> decide

theorem witness_SetDecoderJudged :
    (orderOf [0]).params.length < 2
      ∧ (2 ≤ (orderOf [0, 4]).params.length ∧ 3 < paramNat (orderOf [0, 4]) 3)
      ∧ (decoderLength (paramNat (orderOf [0, 0]) 3) = some 3 ∧ (orderOf [0, 0]).params.length ≠ 3)
      ∧ (decoderLength (paramNat (orderOf [4, 0, 0]) 3) = some 3 ∧ decoderOf (orderOf [4, 0, 0]) = none)
      ∧ decoderOf (orderOf [3, 0, 3]) = some ⟨3, .off, true, true⟩
      ∧ (decoderOf (orderOf [0, 3, 1, 8, 8, 0, 1, 3, 0, 1, 0x81, 1, 0, 1, 0x82, 1])).isSome = true
      ∧ decoderLength (paramNat (orderOf [0, 3, 1, 8, 8, 0, 1, 3, 0, 1, 0x81, 1, 0, 1, 0x82, 1]) 3) = some 16 := by
  decide

/-- Orders of each kind whose fields fit, and one of a kind that does not exist. -/
theorem witness_decoder_fields :
    decoderFits (orderOf [3, 0, 3]) ∧ decoderFits (orderOf [3, 1, 3, 7, 1, 9, 4, 2, 1, 0, 0, 64])
      ∧ decoderFits (orderOf [0, 2, 0, 1, 1, 2, 0x83, 1, 16, 1])
      ∧ decoderFits (orderOf [0, 3, 1, 0, 8, 8, 1, 3, 0, 1, 0x89, 1, 0, 1, 0x8A, 1])
      ∧ ¬decoderFits (orderOf [0, 4]) := by
  refine ⟨⟨by decide, by decide, trivial⟩, ⟨by decide, by decide, ?_⟩, ⟨by decide, by decide, ?_⟩,
    ⟨by decide, by decide, ?_⟩, fun h => h.2.2⟩
  · show asyncFits _
    unfold asyncFits
    decide
  · show clockedFits _
    unfold clockedFits optionalFits
    decide
  · show strobedFits _
    unfold strobedFits optionalFits inDataRange
    refine ⟨by decide, by decide, by decide, by decide, by decide, by decide, by decide, by decide, by decide, by decide,
      by decide, by decide, by decide, fun a h => ?_, fun c h => ?_, by decide⟩
    · obtain rfl : 9 = a := Option.some.inj h
      decide
    · obtain rfl : 10 = c := Option.some.inj h
      decide

theorem witness_LoadBeginAndPartTaken :
    running.seq.load = none ∧ running.capturing = false
      ∧ paramNat (orderOf [4, 1]) 2 = 4 ∧ paramNat (orderOf [200, 8]) 2 = 200 ∧ paramNat (orderOf [200, 8]) 3 = 8
      ∧ paramNat (orderOf [3, 1]) 2 < 4 ∧ 200 < paramNat (orderOf [201, 1]) 2 ∧ paramNat (orderOf [4, 0]) 3 < 1
      ∧ 8 < paramNat (orderOf [4, 9]) 3 ∧ loading.seq.load = some ⟨9, 8, 1, []⟩ ∧ (9 : Station) ≠ (10 : Station)
      ∧ (let o := orderOf [0, 7, 0, 0, 0, 0, 0, 0, 0];
          o.params.length = 2 + paramNat o 3 ∧ paramNat o 2 = 0 ∧ 0 + paramNat o 3 < 8) := by decide

/-- The default program's image holds it (R91, R96). -/
theorem witness_image_holds : imageHolds 1 oneStageImage defaultProgram :=
  ⟨rfl, _, [], rfl,
    ⟨0, [0x10, 0, 0, 0, 0, 0], [], rfl,
      ⟨0x10, 0, 0, 0, 0, [0], [], rfl, rfl, rfl, rfl, rfl, rfl, by decide, rfl, rfl, rfl, ⟨0, rfl, rfl⟩,
        fun _ => ⟨rfl, rfl, rfl⟩, fun h => absurd h (by decide)⟩,
      fun _ => ⟨rfl, rfl⟩, fun h => absurd h (by decide)⟩, rfl⟩

/-- An image whose one stage names stage 1 next fails at stage 0 (R96). -/
theorem witness_image_fails : imageFailsAt 1 [0, 0x11, 0, 0, 0, 0, 0, 0xEF] 0 := by
  refine ⟨[], _, [], rfl, rfl, Or.inl ⟨by decide, rfl, ?_⟩⟩
  rintro one more st h ⟨b, first, second, rfl, ⟨b0, n1, n0, raises, b4, one, two, rfl, _, _, _, _, _, hn, _⟩, _⟩
  obtain rfl : (0x11 : Byte) = b0 := (List.cons.inj (List.cons.inj h).2).1
  exact absurd hn (by decide)

theorem witness_LoadEndsWithItsLastByte :
    (let o := orderOf ([0, 8] ++ oneStageImage);
        o.params.length = 2 + paramNat o 3 ∧ 1 ≤ paramNat o 3 ∧ paramNat o 3 ≤ 120 ∧ paramNat o 2 = 0
          ∧ 0 + paramNat o 3 = 8)
      ∧ (oneStageImage.map BitVec.toNat).sum % 256 = 0
      ∧ ((oneStageImage.dropLast ++ [0xF1]).map BitVec.toNat).sum % 256 ≠ 0
      ∧ (([0, 0x11, 0, 0, 0, 0, 0, 0xEF] : List Byte).map BitVec.toNat).sum % 256 = 0 := by decide

theorem witness_LoadPartRefusals :
    running.seq.load = none ∧ loading.seq.load = some ⟨9, 8, 1, []⟩ ∧ (10 : Station) ≠ (orderOf []).sender
      ∧ (orderOf [0]).params.length < 2
      ∧ (orderOf [0, 2, 0]).params.length ≠ 2 + paramNat (orderOf [0, 2, 0]) 3
      ∧ (orderOf [0, 0]).params.length = 2 + paramNat (orderOf [0, 0]) 3
      ∧ (let o := orderOf ([0, 9] ++ List.replicate 9 0); o.params.length = 2 + paramNat o 3 ∧ 8 < 0 + paramNat o 3)
      ∧ (let o := orderOf [1, 1, 0]; o.params.length = 2 + paramNat o 3 ∧ paramNat o 2 ≠ 0) := by decide

/-- A running node in state mode with an ASYNC slot: arm check 1 fails. -/
def conflicting : State :=
  { running with
    sampler := { running.sampler with settings := { running.sampler.settings with mode := .state } }
    decoders := { running.decoders with
      slots := running.decoders.slots.set 0 ⟨.async ⟨7, true, 8, .even, .two, false, 160⟩, true, true, .stopped, false, none⟩ } }

theorem witness_ArmJudged :
    (orderOf []).params.length = 0 ∧ loading.seq.load.isSome = true ∧ loading.capturing = false
      ∧ conflicting.seq.load = none ∧ conflicting.armConflict = some 1 ∧ conflicting.capturing = false
      ∧ running.seq.load = none ∧ running.armConflict = none ∧ (inState .done).capturing = false := by decide

/-- The record that a full store has no place for. -/
def closingRun : Run := ⟨0, 0, 0, 1, none⟩

/-- A capture with a full store, a trigger position or none, and an open run. -/
def full (floor : Nat) (trigger : Option TriggerPosition) : State :=
  { armed with
    sampler := { armed.sampler with openRun := some closingRun }
    store := { armed.store with
      records := List.replicate 65536 (.trigger 0 .forced), nextSeq := 65546, floor := floor, trigger := trigger } }

theorem full_length (floor : Nat) (trigger : Option TriggerPosition) : (full floor trigger).store.records.length = 65536 :=
  List.length_replicate (n := 65536) (a := Record.trigger 0 .forced)

/-- The closing run of a capture end finds a place in a full store without a trigger position, and none where P is at F. -/
theorem witness_closing_runs :
    (full 5 none).capturing = true ∧ (full 5 none).sampler.openRun = some closingRun
      ∧ (∃ u, (full 5 none).place (.run closingRun) = some u)
      ∧ (full 5 (some ⟨15, 9⟩)).place (.run closingRun) = none := by
  refine ⟨by decide, rfl, ?_, ?_⟩ <;> unfold State.place <;> rw [if_neg (by rw [full_length]; decide)]
  · exact ⟨_, rfl⟩
  · rw [if_neg]
    have ht : (full 5 (some ⟨15, 9⟩)).store.trigger = some ⟨15, 9⟩ := rfl
    unfold Store.mayOverwrite Store.preTrigger Store.oldest
    rw [ht, full_length]
    decide

theorem witness_ForceTriggerAndRelease :
    (inState .armed).capture.state = .armed ∧ (inState .triggered).capture.state ≠ .armed
      ∧ (inState .done).capture.state = .done ∧ (inState .idle).capture.state ≠ .done := by decide

theorem witness_AbortEndsTheCapture :
    running.capturing = false ∧ armed.capturing = true ∧ armed.sampler.openRun = none
      ∧ armed.store.records.length < 65536 := by decide

theorem witness_StandbyTaken :
    (let o := orderOf [1, 3, 0x0F, 0x40, 0x81];
        paramNat o 3 ≤ 16 ∧ o.params.length = 2 + paramNat o 3 ∧ paramNat o 2 ≤ 1
          ∧ (∀ b ∈ o.params.drop 2, b.toNat % 64 < 16 ∧ b.toNat / 64 ≤ 2)
          ∧ ((o.params.drop 2).map (fun b => b.toNat % 64)).Nodup)
      ∧ (let o := orderOf ([0, 16] ++ (List.range 16).map (BitVec.ofNat 8));
        paramNat o 3 = 16 ∧ o.params.length = 2 + paramNat o 3
          ∧ ((o.params.drop 2).map (fun b => b.toNat % 64)).Nodup)
      ∧ (orderOf [0, 0]).params.length = 2 + paramNat (orderOf [0, 0]) 3
      ∧ (let o := orderOf [0, 2, 0x0F, 0x4F]; ¬((o.params.drop 2).map (fun b => b.toNat % 64)).Nodup)
      ∧ (orderOf []).params.length < 2 ∧ 16 < paramNat (orderOf [0, 17]) 3
      ∧ (orderOf [0, 1]).params.length ≠ 2 + paramNat (orderOf [0, 1]) 3 := by decide

theorem witness_StreamOnTaken :
    2 ≤ paramNat (orderOf [2, 0, 8, 10]) 2
      ∧ (paramNat (orderOf [1, 0, 1, 1]) 2 = 1 ∧ streamFits (orderOf [1, 0, 1, 1]))
      ∧ (paramNat (orderOf [1, 1, 32, 255]) 2 = 1 ∧ streamFits (orderOf [1, 1, 32, 255]))
      ∧ ¬streamFits (orderOf [1, 2, 8, 10]) ∧ ¬streamFits (orderOf [1, 0, 7, 10]) ∧ ¬streamFits (orderOf [1, 0, 8, 0]) := by
  unfold streamFits
  decide

/-- A decode record of slot 0. -/
def word0 : DecodeRecord := ⟨0, .data, 0x55, 8, none, 0, 10, {}⟩

/-- A node that streams to station 9 with two records queued. -/
def streaming : State :=
  { running with
    streamer := { running.streamer with
      on := true, dest := some 9, batch := true, queue := [⟨word0, 0, 0⟩, ⟨word0, 255, 0⟩] } }

theorem witness_StreamOffDiscards :
    paramNat (orderOf [0, 0, 0, 0]) 2 = 0 ∧ running.streamer.queue.drop running.streamer.inFlight = []
      ∧ streaming.streamer.queue.drop streaming.streamer.inFlight ≠ [] ∧ streaming.streamer.losses.get 0 ≤ 65535 := by
  decide

/-- A REDUCE with reference EPOCH of one tick, one column, all channels. -/
def reduceOrder : OrderPost := orderOf [2, 0, 0, 0, 0, 0, 0, 0, 0, 0, 0, 0, 1, 0, 1, 0xFF, 0xFF, 0x0F, 0]

/-- Its parameters. -/
def reduceParams : ReduceParams := ⟨.epoch, 0, 1, 1, 0xFFFF, 0xF, 0⟩

/-- A node with one RUN in the store. -/
def holdingOne : State :=
  { running with store := { running.store with records := [.run ⟨0, 0, 0, 1, none⟩], nextSeq := 1 } }

/-- A node with a current reduction of an owner, in a phase, and an outgoing list. -/
def reducing (owner : Station) (phase : ReducePhase) (out : List ColumnsPost) : State :=
  { holdingOne with
    columns := ⟨some ⟨owner, reduceParams, phase, 0, ⟨0, 0, none, none, false⟩⟩, 0, out⟩ }

/-- An outgoing post. -/
def columnsPost (ofCurrent : Bool) (last : Option EndReason) : ColumnsPost := ⟨9, ofCurrent, 0, 0, 0, 1, [], last⟩

theorem witness_ReduceJudged :
    reduceOrder.params.length = 19 ∧ reduceOf reduceOrder = some reduceParams
      ∧ reduceOf (orderOf (List.replicate 19 0)) = none
      ∧ (reducing 10 .starting []).columns.current.map Reduction.owner = some 10
      ∧ running.columns.current = none ∧ running.canReduce reduceParams = false
      ∧ holdingOne.columns.current = none ∧ holdingOne.columns.outgoing = [] ∧ holdingOne.canReduce reduceParams = true
      ∧ (reducing 9 .passing [columnsPost true none]).columns.outgoing ≠ []
      ∧ (reducing 9 .passing [columnsPost true none]).canReduce reduceParams = true
      ∧ reduceFits reduceOrder ∧ ¬reduceFits (orderOf (List.replicate 19 0))
      ∧ (reducing 9 .starting []).columns.endedList
          ⟨9, reduceParams, .starting, 0, ⟨0, 0, none, none, false⟩⟩ .superseded 0 = [] := by
  unfold reduceFits
  decide

theorem witness_ReduceCancelJudged :
    running.columns.current = none
      ∧ ((reducing 10 .starting []).columns.current.map Reduction.owner ≠ some 9)
      ∧ (reducing 9 .starting []).columns.current.map Reduction.phase = some .starting
      ∧ (reducing 9 .passing [columnsPost true none]).columns.current.map Reduction.phase = some .passing
      ∧ (reducing 9 .closing [columnsPost true (some .complete)]).columns.current.map Reduction.phase = some .closing
      ∧ (reducing 9 (.waiting 5) []).columns.current.map Reduction.phase = some (.waiting 5) := by decide

/-- A node whose readout unit builds a read of some records in the store of `holdingOne`. -/
def building (want count : Nat) (copied : List Record) : State :=
  { holdingOne with readout := .building ⟨9, 0, want, count, false, copied, false⟩ }

theorem witness_ReadRecordsJudged :
    (building 1 1 []).readout ≠ .free
      ∧ (holdingOne.readout = .free ∧ paramNat (orderOf [1, 0, 0, 0, 0, 0, 0, 0]) 9 < 1
        ∧ 8 < paramNat (orderOf [1, 0, 0, 0, 0, 0, 0, 9]) 9)
      ∧ (selectionOf (orderOf [7, 0, 0, 0, 0, 0, 0, 8])).bind (fun sel => holdingOne.store.resolve sel 8) = none
      ∧ (selectionOf (orderOf [0, 0, 0, 0, 0, 0, 1, 8])).bind (fun sel => holdingOne.store.resolve sel 8) = none
      ∧ selectionOf (orderOf [1, 0, 0, 0, 0, 0, 0, 8]) = some .oldest
      ∧ holdingOne.store.resolve .oldest 8 = some ⟨0, 8, false⟩ := by decide

theorem witness_StartSelections :
    (let st : Store := ⟨[.trigger 0 .forced, .trigger 0 .forced], 5, 0, some ⟨4, 0⟩, [], some 5⟩;
        st.records.length ≤ st.nextSeq ∧ st.resolve (.atSeq 3) 1 = some ⟨3, 1, false⟩ ∧ st.resolve (.atSeq 2) 1 = none
          ∧ st.resolve (.atSeq 5) 1 = none ∧ st.resolve .trigger 1 = some ⟨4, 1, false⟩
          ∧ st.resolve .previous 8 = some ⟨3, 2, true⟩ ∧ st.resolve .next 1 = none)
      ∧ (let st : Store := ⟨[.trigger 0 .forced], 5, 0, none, [], some 4⟩;
        st.resolve .previous 1 = none ∧ st.resolve .same 1 = some ⟨4, 1, false⟩ ∧ st.resolve .next 1 = none)
      ∧ Store.reset.lastRef = none ∧ Store.reset.trigger = none ∧ Store.reset.records = [] := by decide

theorem witness_SearchJudged :
    running.capturing = false ∧ (building 1 1 []).readout ≠ .free ∧ (building 1 1 []).capturing = false
      ∧ running.readout = .free ∧ directionOf (paramNat (orderOf [2, 0, 0, 0, 0, 0, 0, 0]) 2) = none
      ∧ criterionOf (orderOf [0, 3, 0, 0, 0, 0, 0, 0]) = none
      ∧ directionOf (paramNat (orderOf [1, 2, 0, 3, 0, 0, 0, 0]) 2) = some .backward
      ∧ criterionOf (orderOf [1, 2, 0, 3, 0, 0, 0, 0]) = some (.marker .stateOverrun)
      ∧ running.store.records.length ≤ running.store.nextSeq ∧ holdingOne.readout = .free := by decide

/-- A walk of one retained record begins there; a walk of an empty store, or past the pointer, begins nowhere. -/
theorem witness_walks_begin :
    holdingOne.store.walkBegins .backward 0 ∧ (∀ start, ¬running.store.walkBegins .forward start)
      ∧ ∀ start, ¬Store.walkBegins { holdingOne.store with lastRef := some 0 } .backward start :=
  ⟨⟨⟨⟨by decide, by decide⟩, fun _ h => by cases h⟩, fun n h g => absurd (show n < 1 from h.1.2) (Nat.not_lt.2 g)⟩,
    fun _ h => absurd h.1.1.2 (Nat.not_lt_zero _), fun _ h => absurd (h.1.2 0 rfl) (Nat.not_lt_zero _)⟩

theorem witness_QueryTaken : paramNat (orderOf [7]) 2 ≤ 7 ∧ 7 < paramNat (orderOf [8]) 2 := by decide

/-- A node with an unread fault record. -/
def faulted (read : Bool) : State :=
  { running with orders := { running.orders with fault := some ⟨1, 4, .idle, 255, read⟩ } }

theorem witness_FaultOrders :
    running.orders.fault = none ∧ (faulted false).orders.fault = some ⟨1, 4, .idle, 255, false⟩ := by decide

theorem witness_ResetOrderRestoresTheNode :
    (answering 4).receives = true ∧ (asleep .idle false).receives = true ∧ (orderOf []).params.length = 0 := by decide

/-- A placement list of a length. -/
def placing (n : Nat) : State :=
  { armed with store := { armed.store with placement := List.replicate n ⟨1, 1, 0, 0⟩ } }

theorem witness_SignalReceiptIsPlaced :
    armed.receives = true ∧ running.capturing = false ∧ (placing 7).capturing = true
      ∧ (placing 7).store.placement.length < 8 ∧ 8 ≤ (placing 8).store.placement.length
      ∧ (placing 8).store.placement = List.replicate 7 ⟨1, 1, 0, 0⟩ ++ [⟨1, 1, 0, 0⟩] ∧ (8 : FlagSet) ≠ 0 := by decide

theorem witness_MarkSetsTheTickOrIsSkipped :
    running.receives = true ∧ running.capturing = false ∧ (inState .triggered).receives = true
      ∧ (inState .triggered).capturing = true := by decide

theorem witness_PostsAreDiscardedOrSetAside :
    running.receives = true ∧ acceptPost [] = none
      ∧ (acceptPost (framePost 7 9 (some 0) [])).map HeardPost.cls = some 7
      ∧ (acceptPost (framePost 3 9 (some 1) [0x08, 0])).map HeardPost.dest = some 1 ∧ running.link.station.val = 0
      ∧ (acceptPost (framePost 1 14 none [1, 0, 0, 0, 0, 0, 0])).isSome = true
      ∧ acceptPost (framePost 1 14 none [1, 0, 0, 0, 0, 0]) = none
      ∧ (acceptPost (framePost 0 0 none [0, 0, 0, 0, 0, 0])).isSome = true := by decide

theorem witness_FramedPostsAreAccepted :
    (0 < 8 ∧ ([0, 0, 0, 0, 0, 0] : List Byte).length = 6) ∧ (7 < 8 ∧ (List.replicate 128 (0 : Byte)).length ≤ 128)
      ∧ ([1, 0, 0, 0, 0, 0, 0] : List Byte).length = 7 := by decide

/-- A node in a state-mode capture. -/
def stateArmed : State :=
  { armed with
    sampler := { armed.sampler with
      settings := { armed.sampler.settings with mode := .state }, record := ⟨.state, 1⟩ } }

/-- The premise of a transition: the input crosses the threshold of an enabled channel. -/
def crosses (s : State) (ch : Channel) (mv : Int) : Bool :=
  decide (s.pfe.thresholds.get (groupOf ch) * 25 < s.pfe.inputs[ch.val])
      != decide (s.pfe.thresholds.get (groupOf ch) * 25 < mv)
    && s.pfe.enabled.getLsbD ch.val

theorem witness_TransitionIsRecorded :
    crosses running 0 1650 = false ∧ crosses running 0 1651 = true ∧ running.resetHeld = false
      ∧ running.capturing = false ∧ running.capture.state ≠ .standby ∧ crosses armed 15 1651 = true
      ∧ armed.capturing = true ∧ armed.sampler.record.mode = .timing
      ∧ stateArmed.capturing = true ∧ stateArmed.sampler.record.mode = .state
      ∧ stateArmed.sampler.settings.clockChannel = 15 ∧ stateArmed.sampler.hold = none
      ∧ crosses stateArmed 15 1651 = true ∧ crosses stateArmed 14 1651 = true ∧ stateArmed.sampler.settings.qualifier = none
      ∧ (asleep .idle false).capture.state = .standby ∧ crosses (asleep .idle false) 3 1651 = true
      ∧ (∀ m ∈ (asleep .idle false).pfe.wakeSet, m.ch = 3 → m.edge.takes true = false) := by decide

/-- A state capture at tick 5 with a qualifier on CH14 and a pending HOLD sample. -/
def pendingHold (edgeTick due : Nat) : State :=
  { stateArmed with
    time := ⟨5, 5⟩
    sampler := { stateArmed.sampler with
      settings := { stateArmed.sampler.settings with qualifier := some 14 }
      hold := some ⟨edgeTick, due, true, false⟩ } }

theorem witness_hold_and_qualifier :
    ((pendingHold 4 5).sampler.hold = some ⟨4, 5, true, false⟩ ∧ 4 < (pendingHold 4 5).time.tick
        ∧ (pendingHold 4 5).time.tick ≤ 5 ∧ crosses (pendingHold 4 5) 15 1651 = true)
      ∧ ¬(5 < (pendingHold 5 9).time.tick ∧ (pendingHold 5 9).time.tick ≤ 9)
      ∧ (pendingHold 4 5).sampler.settings.qualifier = some 14 ∧ crosses (pendingHold 4 5) 14 1651 = true
      ∧ (pendingHold 4 5).sampler.settings.clockChannel ≠ 14 := by decide

theorem witness_WakeEdgeEndsStandby :
    ((asleep .idle false).capture.state = .standby ∧ (⟨15, .rising⟩ : WakeMember) ∈ (asleep .idle false).pfe.wakeSet
        ∧ crosses (asleep .idle false) 15 1651 = true ∧ Edge.rising.takes true = true
        ∧ (asleep .idle false).capture.wakeArm = false)
      ∧ ((asleep .done true).capture.wakeArm = true ∧ (asleep .done true).seq.load = none
        ∧ (asleep .done true).armConflict = none)
      ∧ ({ conflicting with capture := (asleep .idle true).capture } : State).armConflict = some 1
      ∧ ({ asleep .idle true with seq := loading.seq } : State).seq.load.isSome = true := by decide

theorem witness_GridSampleIsTaken :
    armed.resetHeld = false ∧ armed.capturing = true ∧ armed.sampler.record.mode = .timing
      ∧ armed.time.tick % armed.sampler.record.divisor = 0 ∧ armed.sampler.lastSampleTick ≠ some armed.time.tick := by
  decide

/-- A state-mode capture at tick 10 with a clock edge to examine, of a clock type and factor. -/
def clocked (type : ClockType) (factor : Nat) (lastTaken : Option Nat) (edge : ClockEdge) : State :=
  { stateArmed with
    time := ⟨10, 10⟩
    sampler := { stateArmed.sampler with
      settings := { stateArmed.sampler.settings with clockType := type, tdFactor := factor }
      lastTaken := lastTaken
      clockEdges := [edge] } }

theorem witness_ClockEdgeIsExamined :
    (let s := clocked .hold 2 (some 8) ⟨10, true, true⟩;
        s.resetHeld = false ∧ s.capturing = true ∧ s.sampler.clockEdges = ⟨10, true, true⟩ :: [] ∧ (10 : Nat) ≤ s.time.tick
          ∧ s.sampler.settings.clockEdge.takes true = true ∧ s.sampler.settings.qualifier = none
          ∧ s.sampler.lastTaken = some 8 ∧ s.sampler.settings.clockType = .hold)
      ∧ (let s := clocked .edge 0 (some 9) ⟨10, true, true⟩; s.sampler.lastTaken = some 9 ∧ ¬(9 + 2 ≤ 10))
      ∧ (let s := clocked .edge 0 none ⟨10, false, true⟩; s.sampler.settings.clockEdge.takes false = false)
      ∧ (let s := clocked .delayed 1 none ⟨10, true, true⟩;
        s.sampler.settings.clockType = .delayed ∧ s.sampler.settings.tdFactor * s.sampler.settings.tdMultiplier ≠ 0)
      ∧ (let s := clocked .delayed 0 none ⟨10, true, true⟩;
        s.sampler.settings.tdFactor * s.sampler.settings.tdMultiplier = 0)
      ∧ ((pendingHold 4 5).sampler.settings.qualifier.isNone
        || (⟨5, true, false⟩ : ClockEdge).qualifier == (pendingHold 4 5).sampler.settings.qualifyingLevel) = false := by
  decide

/-- A state-mode capture with a pending HOLD sample for a clock level. -/
def holding (level : Bool) : State :=
  { stateArmed with
    time := ⟨10, 10⟩
    sampler := { stateArmed.sampler with hold := some ⟨8, 10, level, false⟩, delayLine := [⟨10, false⟩] } }

theorem witness_DueStateSamplesComplete :
    (holding false).capturing = true ∧ (holding false).sampler.hold = some ⟨8, 10, false, false⟩
      ∧ (10 : Nat) ≤ (holding false).time.tick ∧ hasChannel (holding false).pfe.levels 15 = false
      ∧ (holding true).sampler.hold = some ⟨8, 10, true, false⟩ ∧ hasChannel (holding true).pfe.levels 15 ≠ true
      ∧ (holding true).sampler.delayLine = ⟨10, false⟩ :: [] := by decide

/-- An INTERLOCKED slot with strobe CH8, acknowledge CH9 and T = 1. -/
def interlocked : StrobedSettings :=
  ⟨0, 8, ⟨8, true⟩, .interlocked, 1, some ⟨⟨9, true⟩, 1⟩, none, false⟩

/-- A capture in which it latched a word at index 0 and no acknowledge came. -/
def stalling : State :=
  { armed with
    time := ⟨1, 1⟩
    decoders := { armed.decoders with
      slots := armed.decoders.slots.set 2
        ⟨.strobed interlocked, false, false, .inWord (.strobed 0 0 (some (0x55, .data))), false, none⟩ }
    sampler := { armed.sampler with nextIndex := 1, prevValue := some 0, lastSampleTick := some 0 } }

theorem witness_InterlockedTimeoutStalls :
    stalling.resetHeld = false ∧ stalling.capturing = true ∧ stalling.sampler.record.mode = .timing
      ∧ stalling.time.tick % stalling.sampler.record.divisor = 0 ∧ stalling.sampler.lastSampleTick ≠ some stalling.time.tick
      ∧ (stalling.decoders.slots.get 2).kind = .strobed interlocked ∧ interlocked.ack = some ⟨⟨9, true⟩, 1⟩
      ∧ interlocked.runPrefixing = false
      ∧ (stalling.decoders.slots.get 2).phase = .inWord (.strobed 0 0 (some (0x55, .data)))
      ∧ stalling.sampler.nextIndex = 0 + 1 ∧ stalling.readSample.movesTo 9 true = false := by decide

/-- A slot of a kind in a phase, and a sample of CH0 to CH9. -/
def slotIn (kind : DecoderKind) (phase : Phase) : Slot := ⟨kind, false, true, phase, false, none⟩

theorem witness_decoders_frame :
    ((slotIn .off (.inWord (.async 0 0 1 []))).phase = .inWord (.async 0 0 1 []) ∧ (1 : Nat) ≠ 0)
      ∧ (slotIn .off .hunting).phase ≠ .stopped
      ∧ (slotIn .off (.inWord (.clocked 0 [true]))).phase = .inWord (.clocked 0 [true])
      ∧ (slotIn .off .recovering).phase = .recovering
      ∧ (slotIn .off (.inWord (.strobed 0 0 none))).phase = .inWord (.strobed 0 0 none)
      ∧ hasChannel (0x100 : Levels) 8 = true ∧ hasChannel (0 : Levels) 8 = false := by decide

/-- A capture at tick 4,096 with counter 0 in a mode on TICK/4096, with a value, reload 2. -/
def counting (mode : CounterMode) (oneshot expired : Bool) (value : Nat) : State :=
  { armed with
    time := ⟨4096, 4096⟩
    counters := armed.counters.update 0 (fun c =>
      { c with
        value := value, expired := expired, gateOpen := true
        settings := { c.settings with mode := mode, source := .tick4096, reload := 2, oneshot := oneshot } }) }

/-- The captures of `holding` with a reading of tick 10 that an examined edge took: the delay line and the hold sample read it. -/
theorem witness_readings_of_a_tick :
    (let s := { holding false with
          sampler := { (holding false).sampler with levelsRead := some ⟨10, 0x8000⟩ } };
      s.tickLevels = 0x8000 ∧ s.pfe.levels = 0 ∧ s.sampler.levelsRead.map LevelsRead.tick = some s.time.tick)
      ∧ (holding false).tickLevels = (holding false).pfe.levels
      ∧ (let s := { clocked .edge 0 none ⟨10, true, true⟩ with
            sampler := { (clocked .edge 0 none ⟨10, true, true⟩).sampler with
              settings := { stateArmed.sampler.settings with qualifier := some 14, qualifyingLevel := true } } };
        s.sampler.settings.qualifier.isSome = true
          ∧ ((s.sampler.clockEdges.head?.map ClockEdge.qualifier).getD false == s.sampler.settings.qualifyingLevel) = true) := by
  decide

/-- A move of CH0 after the clock edge of tick 10 was examined with its qualifier is a move of tick 11: the delayed sample that is due
at tick 10 reads CH0 as it stood at that tick (R1, R13). -/
theorem test_delayed_sample_reads_its_tick :
    (let s := { clocked .edge 0 (some 9) ⟨10, true, true⟩ with
          sampler := { (clocked .edge 0 (some 9) ⟨10, true, true⟩).sampler with
            settings := { stateArmed.sampler.settings with qualifier := some 14, qualifyingLevel := true }
            delayLine := [⟨10, false⟩] } };
      ((after .activeEdge s id).bind (fun t => after (.transition 0 3000) t id)).bind
          (fun t => after .delayLineDue t (fun u => (u.sampler.openRun.map Run.value, u.pfe.levels)))
        = some (some 0, 1)) := by decide

/-- A pair of counters 2 and 3 on TICK/1, a GATED partner, and an occurrence of each kind at a sample. -/
def pairedCounters : State :=
  { armed with
    time := ⟨7, 7⟩
    counters := { (armed.counters.update 2 (fun c => { c with settings := { c.settings with mode := .period, source := .tick1 } })).update
        3 (fun c => { c with settings := { c.settings with mode := .cascade, reload := 1 } }) with cascade23 := true } }

theorem witness_pairs_and_gates :
    pairedCounters.counters.paired 2 ∧ pairedCounters.counters.paired 3 ∧ ¬pairedCounters.counters.paired 0
      ∧ (pairedCounters.counters.k.get 2).ticksAt 7 = true ∧ (pairedCounters.counters.k.get 2).settings.mode = .period
      ∧ partnerOf 2 = 3 ∧ (counting .count false false 1).counters.cascade01 = false
      ∧ ((counting .count false false 1).counters.k.get 0).expiresNext = true
      ∧ ((counting .count false false 1).counters.k.get 1).settings.mode ≠ .gated :=
  ⟨⟨rfl, rfl⟩, ⟨rfl, rfl⟩, fun h => absurd h.1 (by decide), by decide, rfl, rfl, rfl, by decide, by decide⟩

theorem witness_TickCountersExpireAndOverflow :
    (let s := counting .count false false 1;
        s.resetHeld = false ∧ s.capturing = true ∧ (s.counters.k.get 0).settings.source.divider = some 4096
          ∧ s.time.tick % 4096 = 0 ∧ (s.counters.k.get 0).countedTo < s.time.tick ∧ s.counters.cascaded 0 = false
          ∧ (s.counters.k.get 0).settings.mode = .count
          ∧ (s.counters.k.get 0).settings.reload ≤ (s.counters.k.get 0).value + 1)
      ∧ ((counting .count false false 0).counters.k.get 0).value + 1 < 2
      ∧ ((counting .count true true 1).counters.k.get 0).expired = true
      ∧ ((counting .period false false 65533).counters.k.get 0).value + 1 < 65535
      ∧ ((counting .gated false false 65534).counters.k.get 0).value + 1 = 65535
      ∧ ((counting .gated false false 65535).counters.k.get 0).settings.mode = .gated
      ∧ ((counting .gated false false 65535).counters.k.get 0).gateOpen = true := by decide

theorem witness_DepthEndsTheCapture :
    (let s := { armed with capture := { armed.capture with state := .triggered, countdown := 1 } };
      s.resetHeld = false ∧ s.capture.state = .triggered ∧ s.capture.countdown = 1 ∧ s.sampler.record.mode = .timing
        ∧ s.time.tick % s.sampler.record.divisor = 0 ∧ s.sampler.lastSampleTick ≠ some s.time.tick) := by decide

theorem witness_TimersEndTheCapture :
    (let s := { armed with capture := { armed.capture with armTimer := some 0 } };
        s.resetHeld = false ∧ s.capture.state = .armed ∧ s.capture.armTimer = some 0 ∧ 0 ≤ s.time.tick
          ∧ s.store.records.length < 65536)
      ∧ (let s := { armed with time := ⟨2 ^ 48 - 1, 0⟩ }; s.capturing = true ∧ s.time.tick = 2 ^ 48 - 1) := by decide

theorem witness_ElapsedTimersAct :
    (let s := { loading with orders := { loading.orders with loadTimer := some 0 } };
        s.resetHeld = false ∧ s.orders.loadTimer = some 0 ∧ 0 ≤ s.time.elapsed ∧ s.seq.load = some ⟨9, 8, 1, []⟩)
      ∧ (let s := { streaming with time := ⟨0, 400000⟩ };
        s.streamer.on = true ∧ s.streamer.batch = true ∧ s.streamer.ageReached = false
          ∧ s.streamer.queue = ⟨word0, 0, 0⟩ :: [⟨word0, 255, 0⟩]
          ∧ s.streamer.timeout * 40000 ≤ s.time.elapsed - 0)
      ∧ ((reducing 9 (.waiting 0) []).columns.current.map Reduction.phase = some (.waiting 0)
        ∧ 0 ≤ (reducing 9 (.waiting 0) []).time.elapsed) := by decide

theorem witness_ReadBuildCopiesRecords :
    (let s := building 2 2 [.run ⟨0, 0, 0, 1, none⟩]; s.resetHeld = false ∧ s.store.nextSeq ≤ 0 + 1)
      ∧ (let s := building 2 2 []; s.store.recordAt 0 = some (.run ⟨0, 0, 0, 1, none⟩) ∧ 0 < s.store.nextSeq ∧ 0 + 1 < 2)
      ∧ (let s := building 1 1 []; s.store.recordAt 0 = some (.run ⟨0, 0, 0, 1, none⟩) ∧ 1 ≤ 0 + 1)
      ∧ (let s := { building 2 2 [] with store := { holdingOne.store with nextSeq := 2 } };
        s.readout = .building ⟨9, 0, 2, 2, false, [], false⟩ ∧ 0 < s.store.nextSeq - s.store.records.length) := by decide

/-- A walk over the store of `holdingOne` for a marker or for any run. -/
def walking (c : Criterion) : WalkJob := ⟨9, c, .backward, 0⟩

theorem witness_SearchWalkEnds :
    holdingOne.store.records.length ≤ holdingOne.store.nextSeq
      ∧ holdingOne.store.walkEnds (walking (.runPattern 0 0)) 0
      ∧ holdingOne.store.recordAt 0 = some (.run ⟨0, 0, 0, 1, none⟩)
      ∧ (∀ q, ¬holdingOne.store.walkEnds (walking (.marker .trigger)) q)
      ∧ ({ holdingOne with readout := .walking (walking (.runPattern 0 0)) } : State).resetHeld = false := by
  refine ⟨by decide, ⟨⟨⟨by decide, by decide⟩, Nat.lt_irrefl 0, _, rfl, _, rfl, fun _ _ _ => rfl⟩, fun n h g => ?_⟩,
    rfl, ?_, rfl⟩
  · exact absurd (show n < 1 from h.1.2) (Nat.not_lt.2 g)
  · rintro q ⟨⟨⟨_, h⟩, _, r, hr, ha⟩, _⟩
    obtain rfl : q = 0 := Nat.lt_one_iff.1 h
    obtain rfl : Record.run ⟨0, 0, 0, 1, none⟩ = r := Option.some.inj hr
    obtain ⟨_, _, h⟩ := ha
    cases h

/-- A node on an idle line since elapsed time 0, every source's post offered. -/
def onIdleLine (elapsed : Nat) (retry : Bool) : State :=
  { running with
    time := ⟨0, elapsed⟩
    link := { running.link with idleSince := some 0, retryWait := retry, offered := allSources } }

theorem witness_LineIdleLetsTheNodeRun : State.reset.resetHeld = false ∧ State.reset.link.flight = none
    ∧ State.reset.link.idleSince = none ∧ (onIdleLine 0 false).link.idleSince ≠ none := by decide

theorem witness_MostUrgentPostStarts :
    running.link.state = .running ∧ running.link.flight = none ∧ running.link.idleSince = none
      ∧ ((onIdleLine 4095 true).link.retryWait = true ∧ (onIdleLine 4095 true).time.elapsed - 0 < 64 * 64)
      ∧ (64 * 64 ≤ (onIdleLine 4096 true).time.elapsed - 0 ∧ (onIdleLine 4096 true).link.pendingPart.flags = 0
        ∧ (onIdleLine 4096 true).orders.readyNotice = some .present)
      ∧ (let s := { onIdleLine 0 false with link := { (onIdleLine 0 false).link with pendingPart := ⟨8, some 3⟩ } };
        s.link.retryWait = false ∧ s.link.pendingPart.flags ≠ 0)
      ∧ (let s := { onIdleLine 0 false with
            orders := { (answering 1).orders with notices := { (answering 1).orders.notices with present := false } } };
        s.orders.readyNotice = none ∧ s.orders.answers = ⟨9, 0x12, 0, .ok, 0, [], false⟩ :: [])
      ∧ ({ onIdleLine 0 false with
          orders := { running.orders with notices := { running.orders.notices with present := false } } } : State).choice
        = none := by decide

/-- A start is allowed at a bit time of the idle line, and not between two, nor while the retry wait stands. -/
theorem witness_starts_are_allowed :
    (onIdleLine 0 false).startAllowed ∧ (onIdleLine 4096 true).startAllowed ∧ ¬(onIdleLine 65 false).startAllowed
      ∧ ¬(onIdleLine 4032 true).startAllowed := by
  refine ⟨⟨rfl, rfl, rfl, 0, rfl, rfl, fun h => absurd h (by decide)⟩, ⟨rfl, rfl, rfl, 0, rfl, rfl, fun _ => by decide⟩, ?_, ?_⟩
  · rintro ⟨_, _, _, x, h, g, _⟩
    obtain rfl : 0 = x := Option.some.inj h
    exact absurd g (by decide)
  · rintro ⟨_, _, _, x, h, _, g⟩
    obtain rfl : 0 = x := Option.some.inj h
    exact absurd (g rfl) (by decide)

/-- Each source may offer a post; one that is not among the offered may not. -/
theorem witness_sources_offer :
    ({ onIdleLine 0 false with
        link := { (onIdleLine 0 false).link with pendingPart := ⟨8, some 3⟩ } } : State).mayOffer .signal
      ∧ (onIdleLine 0 false).mayOffer .notice
      ∧ ({ onIdleLine 0 false with orders := (answering 1).orders } : State).mayOffer .answer
      ∧ ({ onIdleLine 0 false with
          columns := ⟨none, 0, [⟨9, false, 0, 0, 0, 0, [], some .cancelled⟩]⟩ } : State).mayOffer .columns
      ∧ ({ onIdleLine 0 false with streamer := { streaming.streamer with ageReached := true } } : State).mayOffer .stream
      ∧ ({ onIdleLine 0 false with
          readout := .holding ⟨9, 0, [], true, false, false, false⟩ } : State).mayOffer .records
      ∧ ¬running.mayOffer .notice :=
  ⟨⟨by decide, show ((8 : FlagSet) ≠ 0) by decide⟩, ⟨by decide, .present, rfl, by decide⟩,
    ⟨by decide, List.cons_ne_nil _ _⟩, ⟨by decide, List.cons_ne_nil _ _⟩, ⟨by decide, rfl, by decide, fun _ => Or.inr rfl⟩, ⟨by decide, _, rfl⟩,
    fun h => absurd h.1 (by decide)⟩

/-- A node with nothing but PRESENT sent, on an idle line. -/
def silent (s : State) : State :=
  { s with
    time := ⟨0, 640⟩
    link := (onIdleLine 0 false).link
    orders := { running.orders with notices := { running.orders.notices with present := false } } }

theorem witness_lower_sources_start :
    (silent (reducing 9 .passing [columnsPost true none])).choice = some .columns
      ∧ (silent { streaming with streamer := { streaming.streamer with ageReached := true } }).choice = some .stream
      ∧ (silent { running with readout := .holding ⟨9, 0, [], true, false, false, false⟩ }).choice = some .records
      ∧ (silent running).mayStart = true ∧ (silent running).choice = none
      ∧ (640 - 0) % 64 = 0 ∧ (641 - 0) % 64 ≠ 0
      ∧ (let s := { silent running with
            link := { (silent running).link with
              pendingPart := ⟨8, some 3⟩, newRaise := some ⟨640, ⟨0, none⟩, ⟨8, some 3⟩⟩ } };
        s.link.newRaise.map NewRaise.time = some s.time.elapsed ∧ s.choice = none) := by decide

/-- A node with a post of a source in flight since elapsed time 0, of 5 bytes at 64 ticks a bit, at an elapsed time. -/
def sending (source : Source) (elapsed : Nat) : State :=
  { running with
    time := ⟨0, elapsed⟩
    link := { running.link with flight := some ⟨source, [0, 0, 0, 0, 0], 0⟩, flightPart := ⟨8, some 3⟩ } }

theorem witness_SentInFullClearsTheSource :
    (sending .signal 2880).link.flight = some ⟨.signal, [0, 0, 0, 0, 0], 0⟩ ∧ 0 + 9 * 5 * 64 ≤ (sending .signal 2880).time.elapsed
      ∧ (sending .signal 2879).time.elapsed < 0 + 9 * 5 * 64
      ∧ (let s := { sending .notice 2880 with
            orders := { running.orders with notices := { running.orders.notices with flying := some .present } } };
        s.orders.notices.flying = some .present ∧ s.orders.notices.setAgain = false)
      ∧ (answering 1).orders.answers = ⟨9, 0x12, 0, .ok, 0, [], false⟩ :: []
      ∧ (sending .columns 2880).columns = ⟨none, 0, []⟩
      ∧ (reducing 9 .passing [columnsPost true none]).columns.outgoing = columnsPost true none :: []
      ∧ (reducing 9 .closing [columnsPost true (some .complete)]).columns.outgoing = columnsPost true (some .complete) :: []
      ∧ (reducing 9 .starting [columnsPost false none]).columns.outgoing = columnsPost false none :: []
      ∧ ((sending .stream 2880).streamer.lostAt 2880).length < 2
      ∧ 2 ≤ (({ (sending .stream 2880).streamer with
          lostNow := [⟨word0, 0, 2880⟩, ⟨word0, 0, 2880⟩] } : Streamer).lostAt 2880).length
      ∧ ({ sending .records 2880 with readout := .holding ⟨9, 0, [], true, false, false, false⟩ } : State).readout
        = .holding ⟨9, 0, [], true, false, false, false⟩ := by decide

theorem witness_columns_fit : (sending .columns 0).columns.listFits
    ∧ (reducing 9 .passing [columnsPost true none]).columns.listFits
    ∧ (reducing 9 (.waiting 0) []).columns.listFits :=
  ⟨⟨by decide, by decide⟩, ⟨_, rfl, rfl, rfl⟩, rfl⟩

theorem witness_WithdrawnAndCollidedPostsReturn :
    (let s := sending .signal 576; s.link.flight = some ⟨.signal, [0, 0, 0, 0, 0], 0⟩ ∧ 0 + 1 * 64 ≤ s.time.elapsed
        ∧ s.time.elapsed ≤ 0 + 9 * 64)
      ∧ (sending .signal 63).time.elapsed < 0 + 1 * 64 ∧ 0 + 9 * 64 < (sending .signal 577).time.elapsed
      ∧ (let s := sending .answer 640; 0 + 10 * 64 ≤ s.time.elapsed ∧ s.time.elapsed ≤ 0 + 9 * 5 * 64
        ∧ s.link.collisions = 0)
      ∧ 0 + 9 * 5 * 64 < (sending .answer 2881).time.elapsed
      ∧ (let s := { sending .answer 640 with link := { (sending .answer 640).link with collisions := 1 } };
        s.link.collisions ≠ 0 ∧ s.orders.fault = none)
      ∧ (faulted true).orders.fault.map FaultRecord.read = some true
      ∧ (faulted false).orders.fault.map FaultRecord.read = some false := by decide

theorem witness_ResetPinAndRelease : held.resetHeld = true ∧ min (15#4).toNat 14 = 14 ∧ min (14#4).toNat 14 = 14 := by decide

theorem witness_RecordsArePlacedByTheStoresRule :
    armed.store.records.length < 65536
      ∧ (65536 ≤ (full 5 none).store.records.length ∧ (full 5 none).store.trigger = none)
      ∧ (65536 ≤ (full 5 (some ⟨16, 9⟩)).store.records.length
        ∧ min (full 5 (some ⟨16, 9⟩)).store.floor 9 < 16 - ((full 5 (some ⟨16, 9⟩)).store.nextSeq - 65536))
      ∧ (65536 ≤ (full 5 (some ⟨15, 9⟩)).store.records.length
        ∧ 15 - ((full 5 (some ⟨15, 9⟩)).store.nextSeq - 65536) ≤ min (full 5 (some ⟨15, 9⟩)).store.floor 9)
      ∧ (0 : Nat) + ([] : List Record).length ≤ 10 ∧ 10 < 0 + 11
      ∧ (reducing 9 .passing []).columns.current.map (fun p => p.snapshot.floor.getD (p.snapshot.horizon + 1)) = some 1 :=
  ⟨by decide, ⟨Nat.le_of_eq (full_length _ _).symm, rfl⟩, ⟨Nat.le_of_eq (full_length _ _).symm, by decide⟩,
    ⟨Nat.le_of_eq (full_length _ _).symm, by decide⟩, by decide, by decide, by decide⟩

theorem witness_RunsFormFromEqualSamples :
    Sampler.reset.openRun = none
      ∧ ({ Sampler.reset with openRun := some ⟨0, 0, 0, 65534, none⟩ } : Sampler).openRun = some ⟨0, 0, 0, 65534, none⟩
      ∧ (65534 < 65535 ∧ ¬(65535 < 65535)) := by decide

theorem witness_PrimaryIsTakenBeforeAlternate :
    Sequencer.reset.currentStage = defaultProgram.head?
      ∧ (1 : Nat) ≤ Sequencer.reset.primaryCount + (true && (false || Sequencer.reset.primaryPrev != some true)).toNat := by
  decide

/-- A stage with an ALTERNATE branch, of a pattern held for two samples, that reaches its count before PRIMARY does. -/
def twoWays : Stage :=
  { primary := ⟨.always, none, .a, false, 3, 0, false, 0, 0, false⟩
    alternate := some ⟨.pattern 1 1 2, some (.flag 8 false), .aOrB, true, 1, 0, true, 0, 0, false⟩ }

theorem witness_AlternateIsTaken :
    (let q : Sequencer := { Sequencer.reset with program := [twoWays], holds := [⟨⟨0, 0⟩, ⟨1, 0⟩⟩] };
        q.currentStage = some twoWays ∧ twoWays.alternate.isSome = true
          ∧ Sequencer.reset.primaryCount + 1 < twoWays.primary.count
          ∧ (twoWays.alternate.map Branch.count).getD 0 ≤ q.alternateCount + (true && (true || q.alternatePrev != some true)).toNat
          ∧ q.alternateCount + (false && (true || q.alternatePrev != some true)).toNat
            < (twoWays.alternate.map Branch.count).getD 0) := by decide

/-- The second sample of the pattern takes ALTERNATE; one without it, or with a hold count of 0 before, takes neither branch. -/
theorem test_alternate_after_a_hold :
    (let run (value : Levels) (hold : Nat) : Option BranchId :=
        (Sequencer.evaluate { Sequencer.reset with program := [twoWays], holds := [⟨⟨0, 0⟩, ⟨hold, 0⟩⟩] }
          ⟨⟨0, value, 0, 0, 0, 0⟩, [], armed.counters.events, 0⟩).2.map Taken.branchId;
      run 1 1 = some .alternate ∧ run 0 1 = none ∧ run 1 0 = none) := by decide

/-- The worked figures of R106: P = 160, so the start bit is read 5 samples after s0. -/
theorem witness_FalseStartCompletesNothing :
    (let c : AsyncSettings := ⟨7, true, 8, .even, .two, false, 160⟩; 1005 = 1000 + c.period / 32 ∧ 1004 ≠ 1000 + c.period / 32)
      ∧ hasChannel (0x80 : Levels) 7 = true ∧ hasChannel (0 : Levels) 7 ≠ true := by decide

/-- HUNTING, with and without an idle sample seen. -/
theorem witness_hunting :
    (slotIn .off .hunting).phase = .hunting ∧ (slotIn .off .hunting).idleSeen = false
      ∧ ({ slotIn .off .hunting with idleSeen := true } : Slot).phase = .hunting := by decide

theorem witness_BoundedStatesStayBounded : running.bounded ∧ stepped running State.pending = some [] :=
  ⟨by unfold State.bounded CaptureControl.standbyConsistent; decide, by decide⟩

theorem witness_OutgoingPostsFitTheirPhase : running.columns.listFits ∧ stepped running State.pending = some [] :=
  ⟨⟨by decide, by decide⟩, by decide⟩

end Sys2Proof.Tests
end

/-! SUPPORT. Every order keeps the bounds of the node's lists and counts: one lemma for each judge. -/

namespace Sys2Proof.Machine

/-! ## States that differ elsewhere -/

/-- What the bounds read of a state, but for the decode queue and the answer list. -/
def State.boundedPart (s : State) : Timebase × Store × Nat × Pfe × CaptureControl :=
  (s.time, s.store, s.sampler.missed, s.pfe, s.capture)

/-- The two lists that have a bound of their own and move by themselves: the decode queue and the answers. -/
def State.boundedLists (s : State) : List QueuedRecord × List Answer := (s.streamer.queue, s.orders.answers)

/-- Lists within their own places keep a state within the bounds when nothing else that the bounds read moves. -/
theorem State.bounded_of_lists {s t : State} (h : s.bounded) (same : t.boundedPart = s.boundedPart)
    (queue : t.streamer.queue.length ≤ 64) (answers : t.orders.answers.length ≤ 4) : t.bounded := by
  obtain ⟨h1, h2, h3, h4, h5, h6, h7, _, _, h10, h11⟩ := h
  simp only [State.boundedPart, Prod.mk.injEq] at same
  obtain ⟨time, store, missed, pfe, capture⟩ := same
  unfold State.bounded
  rw [time, store, missed, pfe, capture]
  exact ⟨h1, h2, h3, h4, h5, h6, h7, queue, answers, h10, h11⟩

/-- A state that differs in nothing the bounds read is bounded too. -/
theorem State.bounded_elsewhere {s t : State} (h : s.bounded) (same : t.boundedPart = s.boundedPart)
    (lists : t.boundedLists = s.boundedLists) : t.bounded := by
  obtain ⟨-, -, -, -, -, -, -, h8, h9, -, -⟩ := id h
  simp only [State.boundedLists, Prod.mk.injEq] at lists
  obtain ⟨queue, answers⟩ := lists
  exact State.bounded_of_lists h same (by rw [queue]; exact h8) (by rw [answers]; exact h9)

/-- What one judge owes: its state is within the bounds, and it adds no answer by itself. -/
def KeptWithAnswers (u t : State) : Prop := t.bounded ∧ t.orders.answers = u.orders.answers

/-- A judge that changes nothing the bounds read keeps them. -/
theorem KeptWithAnswers.elsewhere {u t : State} (h : u.bounded) (same : t.boundedPart = u.boundedPart)
    (lists : t.boundedLists = u.boundedLists) : KeptWithAnswers u t :=
  ⟨State.bounded_elsewhere h same lists, congrArg Prod.snd lists⟩

/-- A refusal leaves the state. -/
theorem KeptWithAnswers.refuse {u : State} (h : u.bounded) (why : Status) : KeptWithAnswers u (u.refuse why).state :=
  ⟨h, rfl⟩

/-- A channel set cut to the enabled channels lies inside them (R4). -/
theorem inside_and (v enabled : Levels) : (v &&& enabled) &&& ~~~enabled = 0 := by
  rw [BitVec.and_assoc, BitVec.and_not_self]
  exact BitVec.and_zero

/-- A new front end keeps the bounds when its activity lies inside its enabled channels (R4). -/
theorem State.withPfe_bounded {s : State} (h : s.bounded) {p : Pfe} (hp : p.activity &&& ~~~p.enabled = 0) :
    (s.withPfe p).bounded := by
  obtain ⟨h1, h2, h3, h4, h5, h6, h7, h8, h9, _, h11⟩ := h
  exact ⟨h1, h2, h3, h4, h5, h6, h7, h8, h9, hp, h11⟩

/-- A new Capture Control keeps the bounds when its return state fits and it does not enter ARMED (R24, R53). -/
theorem State.withCapture_bounded {s : State} (h : s.bounded) {c : CaptureControl} (hc : c.standbyConsistent)
    (ha : c.state = .armed → s.capture.state = .armed) : (s.withCapture c).bounded := by
  obtain ⟨h1, h2, h3, h4, h5, h6, h7, h8, h9, h10, _⟩ := h
  exact ⟨h1, h2, h3, h4, fun e => h5 (ha e), h6, h7, h8, h9, h10, hc⟩

/-- Outside STANDBY there is no return state (R53). -/
theorem State.bounded_returnState {s : State} (h : s.bounded) (hs : s.capture.state ≠ .standby) :
    s.capture.returnState = none := by
  obtain ⟨-, -, -, -, -, -, -, -, -, -, h11⟩ := h
  rwa [CaptureControl.standbyConsistent, if_neg hs] at h11

/-- Outside STANDBY and a capture the node is IDLE or DONE (R40). -/
theorem CapState.idle_or_done {c : CapState} (hs : c ≠ .standby) (hc : c.capturing = false) : c = .idle ∨ c = .done := by
  cases c <;> simp_all [CapState.capturing]

/-! ## Setting orders -/

theorem judgeConfigureChannels_bounded (o : OrderPost) : JudgeKeepsBounds (judgeConfigureChannels o) := by
  intro u h _
  unfold judgeConfigureChannels
  split
  · exact KeptWithAnswers.refuse h _
  split
  · exact KeptWithAnswers.refuse h _
  · exact ⟨State.withPfe_bounded h (inside_and _ _), rfl⟩

theorem judgeSetSampling_bounded (o : OrderPost) : JudgeKeepsBounds (judgeSetSampling o) := by
  intro u h _
  unfold judgeSetSampling
  split
  · exact KeptWithAnswers.refuse h _
  split
  · exact KeptWithAnswers.refuse h _
  · exact KeptWithAnswers.elsewhere h rfl rfl

theorem judgeSetCapture_bounded (o : OrderPost) : JudgeKeepsBounds (judgeSetCapture o) := by
  intro u h _
  unfold judgeSetCapture
  split
  · exact KeptWithAnswers.refuse h _
  · obtain ⟨h1, h2, h3, _, h5, h6, h7, h8, h9, h10, h11⟩ := h
    exact ⟨⟨h1, h2, h3, Nat.min_le_left _ _, h5, h6, h7, h8, h9, h10, h11⟩, rfl⟩

theorem judgeSetCounter_bounded (o : OrderPost) : JudgeKeepsBounds (judgeSetCounter o) := by
  intro u h _
  unfold judgeSetCounter
  split
  · exact KeptWithAnswers.refuse h _
  split
  · exact KeptWithAnswers.refuse h _
  · exact KeptWithAnswers.elsewhere h rfl rfl

theorem judgeSetDecoder_bounded (o : OrderPost) : JudgeKeepsBounds (judgeSetDecoder o) := by
  intro u h _
  unfold judgeSetDecoder
  split
  · exact KeptWithAnswers.refuse h _
  split
  · exact KeptWithAnswers.refuse h _
  split
  · exact KeptWithAnswers.refuse h _
  split
  · exact KeptWithAnswers.refuse h _
  · exact KeptWithAnswers.elsewhere h rfl rfl

/-! ## The program load -/

theorem judgeLoadBegin_bounded (o : OrderPost) : JudgeKeepsBounds (judgeLoadBegin o) := by
  intro u h _
  unfold judgeLoadBegin
  dsimp only
  split
  · exact KeptWithAnswers.refuse h _
  split
  · exact KeptWithAnswers.refuse h _
  split
  · exact KeptWithAnswers.refuse h _
  · exact KeptWithAnswers.elsewhere h rfl rfl

/-- The end of a load changes the sequencer and the load alone (R93, R95). -/
theorem State.finishLoad_bounded {u : State} (h : u.bounded) (l : Load) (image : List Byte) :
    KeptWithAnswers u (u.finishLoad l image).state := by
  unfold State.finishLoad
  split
  · exact KeptWithAnswers.elsewhere h rfl rfl
  split
  · exact KeptWithAnswers.elsewhere h rfl rfl
  · exact KeptWithAnswers.elsewhere h rfl rfl

theorem judgeLoadPart_bounded (o : OrderPost) : JudgeKeepsBounds (judgeLoadPart o) := by
  intro u h _
  unfold judgeLoadPart
  split
  · exact KeptWithAnswers.refuse h _
  split
  · exact KeptWithAnswers.refuse h _
  unfold State.loadPart
  dsimp only
  split
  · exact KeptWithAnswers.elsewhere h rfl rfl
  split
  · exact KeptWithAnswers.elsewhere h rfl rfl
  split
  · exact KeptWithAnswers.elsewhere h rfl rfl
  split
  · exact KeptWithAnswers.elsewhere h rfl rfl
  · exact State.finishLoad_bounded h _ _

/-! ## Orders that move the capture state -/

theorem judgeArm_bounded (o : OrderPost) : JudgeKeepsBounds (judgeArm o) := by
  intro u h hs
  unfold judgeArm
  split
  · exact KeptWithAnswers.refuse h _
  split
  · exact KeptWithAnswers.refuse h _
  split
  · exact ⟨h, rfl⟩
  · obtain ⟨hb, ha⟩ := State.armEffects_bounded h hs
    exact ⟨State.bounded_elsewhere hb rfl rfl, ha⟩

theorem judgeForceTrigger_bounded : JudgeKeepsBounds judgeForceTrigger := by
  intro u h _
  unfold judgeForceTrigger
  split
  · obtain ⟨_, _, _, _, _, _, _, _, _, _, h11⟩ := id h
    exact ⟨State.withCapture_bounded h h11 id, rfl⟩
  · exact KeptWithAnswers.refuse h _

theorem judgeAbort_bounded : JudgeKeepsBounds judgeAbort := by
  intro u h _
  unfold judgeAbort
  split
  · rename_i hc
    obtain ⟨hb, ha⟩ := State.discardQueue_bounded (State.endCapture_bounded h hc .aborted)
    exact ⟨hb, by rw [State.ok, ha, State.endCapture_orders]⟩
  · exact KeptWithAnswers.refuse h _

theorem judgeRelease_bounded : JudgeKeepsBounds judgeRelease := by
  intro u h hs
  unfold judgeRelease
  split
  · exact ⟨State.withCapture_bounded h (State.bounded_returnState h hs) (fun e => by cases e), rfl⟩
  · exact KeptWithAnswers.refuse h _

/-- An entry to STANDBY out of IDLE or DONE notes the return state (R52, R53). -/
theorem State.enterStandby_bounded {u : State} (h : u.bounded) (hs : u.capture.state ≠ .standby)
    (hc : u.capturing = false) (x : StandbyOrder) : (u.enterStandby x).bounded := by
  obtain ⟨-, -, -, -, -, -, -, -, -, h10, -⟩ := id h
  refine State.withPfe_bounded (State.withCapture_bounded h ?_ (fun e => by cases e)) h10
  rcases CapState.idle_or_done hs hc with e | e <;> simp [CaptureControl.standbyConsistent, e]

theorem judgeStandby_bounded (o : OrderPost) : JudgeKeepsBounds (judgeStandby o) := by
  intro u h hs
  unfold judgeStandby
  split
  · exact KeptWithAnswers.refuse h _
  split
  · exact KeptWithAnswers.refuse h _
  split
  · exact KeptWithAnswers.refuse h _
  split
  · exact KeptWithAnswers.refuse h _
  · rename_i hc _ _ _
    exact ⟨State.enterStandby_bounded h hs (Bool.not_eq_true _ ▸ hc) _, rfl⟩

/-! ## Streaming, reductions and reading -/

theorem judgeStream_bounded (o : OrderPost) : JudgeKeepsBounds (judgeStream o) := by
  intro u h _
  unfold judgeStream
  split
  · exact KeptWithAnswers.refuse h _
  · obtain ⟨hb, ha⟩ := State.discardQueue_bounded h
    exact ⟨State.bounded_elsewhere hb rfl rfl, ha⟩
  split
  · exact KeptWithAnswers.refuse h _
  · exact KeptWithAnswers.elsewhere h rfl rfl

theorem judgeReduce_bounded (o : OrderPost) : JudgeKeepsBounds (judgeReduce o) := by
  intro u h _
  unfold judgeReduce
  split
  · exact KeptWithAnswers.refuse h _
  split
  · exact KeptWithAnswers.refuse h _
  split
  · exact KeptWithAnswers.refuse h _
  · dsimp only
    rw [State.beginReduction_frame, State.endReduction_frame]
    exact KeptWithAnswers.elsewhere h rfl rfl

theorem judgeReduceCancel_bounded (o : OrderPost) : JudgeKeepsBounds (judgeReduceCancel o) := by
  intro u h _
  unfold judgeReduceCancel
  split
  · exact KeptWithAnswers.refuse h _
  split
  · exact KeptWithAnswers.refuse h _
  · rw [State.endReduction_frame]
    exact KeptWithAnswers.elsewhere h rfl rfl

theorem judgeReadRecords_bounded (o : OrderPost) : JudgeKeepsBounds (judgeReadRecords o) := by
  intro u h _
  unfold judgeReadRecords
  split
  · exact KeptWithAnswers.refuse h _
  split
  · exact KeptWithAnswers.refuse h _
  split
  · exact KeptWithAnswers.refuse h _
  · exact KeptWithAnswers.elsewhere h rfl rfl

/-- A walk that begins, or ends at once, changes the readout unit, and draws a free value at most (R38). -/
theorem State.beginWalk_frame (s : State) (dest : Station) (c : Criterion) (d : Direction) :
    s.beginWalk dest c d =
      { s with readout := (s.beginWalk dest c d).readout, freeDraws := (s.beginWalk dest c d).freeDraws } := by
  unfold State.beginWalk
  split <;> rfl

theorem judgeSearch_bounded (o : OrderPost) : JudgeKeepsBounds (judgeSearch o) := by
  intro u h _
  unfold judgeSearch
  split
  · exact KeptWithAnswers.refuse h _
  split
  · exact KeptWithAnswers.refuse h _
  split
  · rw [State.beginWalk_frame]
    exact KeptWithAnswers.elsewhere h rfl rfl
  · exact KeptWithAnswers.refuse h _

theorem judgeQuery_bounded (o : OrderPost) : JudgeKeepsBounds (judgeQuery o) := by
  intro u h _
  unfold judgeQuery
  split
  · exact KeptWithAnswers.refuse h _
  · have hb : (u.withPfe { u.pfe with activity := 0 }).bounded := State.withPfe_bounded h BitVec.zero_and
    unfold State.drawForQuery
    dsimp only
    split
    · exact ⟨State.bounded_elsewhere hb rfl rfl, rfl⟩
    · exact ⟨hb, rfl⟩

theorem judgeReadFault_bounded : JudgeKeepsBounds judgeReadFault :=
  fun _ h _ => KeptWithAnswers.elsewhere h rfl rfl

theorem judgeClearFault_bounded : JudgeKeepsBounds judgeClearFault := by
  intro u h _
  unfold judgeClearFault
  split
  · exact ⟨h, rfl⟩
  · exact KeptWithAnswers.elsewhere h rfl rfl

/-! ## RESET and orders that name nothing -/

/-- A RESET order brings every item to its reset value, and answers it (R182). -/
theorem State.takeReset_bounded {s : State} (h : s.bounded) (o : OrderPost) : (s.takeReset o).bounded := by
  unfold State.takeReset
  split
  · obtain ⟨hl, -⟩ := State.leaveStandby_bounded (s := s.hearPost) h
    obtain ⟨htick, -⟩ := id hl
    dsimp only
    split
    · have hr : s.hearPost.leaveStandby.resetByOrder.bounded :=
        State.bounded_elsewhere (State.resetNode_bounded _ htick) rfl rfl
      exact Judged.settle_bounded (u := s.hearPost.leaveStandby.resetByOrder) hr rfl (by simp; intro _; rfl)
    · unfold State.refuseReset
      split
      · exact hl
      · rename_i hf
        exact Judged.settle_bounded (u := s.hearPost.leaveStandby) hl rfl (by simp [hf])
  · exact h

theorem refuseUnknown_bounded : JudgeKeepsBounds (fun s => s.refuse .unknown) :=
  fun _ h _ => ⟨h, rfl⟩

end Sys2Proof.Machine

/-! SUPPORT. Every event and every passing tick keeps the bounds of the node's lists and counts, and so does every step. -/

namespace Sys2Proof.Machine

/-! ## The line -/

/-- The link is none of the bounds' concern. -/
theorem State.withLink_bounded {s : State} (h : s.bounded) (l : LinkController) : (s.withLink l).bounded :=
  State.bounded_elsewhere h rfl rfl

/-- A post sent in full is taken out of its own list (R159). -/
theorem State.sourceSent_bounded {s : State} (h : s.bounded) (src : Source) : (s.sourceSent src).bounded := by
  obtain ⟨-, -, -, -, -, -, -, hq, ha, -, -⟩ := id h
  cases src with
  | signal => exact State.bounded_elsewhere h rfl rfl
  | notice => exact State.bounded_elsewhere h rfl rfl
  | answer =>
    show s.answerSent.bounded
    rw [State.answerSent_frame]
    exact State.bounded_of_lists h rfl hq (by rw [List.length_tail]; omega)
  | columns =>
    show s.columnsSent.bounded
    rw [State.columnsSent_frame]
    exact State.bounded_elsewhere h rfl rfl
  | stream =>
    have hsent := State.streamSent_bound s hq
    show s.streamSent.bounded
    rw [State.streamSent_frame]
    exact State.bounded_of_lists h rfl hsent ha
  | records => exact State.bounded_elsewhere h rfl rfl

/-- A withdrawn or abandoned post leaves the answers and makes the queue no longer (R130, R132, R159). -/
theorem State.sourceReturned_bounded {s : State} (h : s.bounded) (src : Source) : (s.sourceReturned src).bounded := by
  have hq := s.sourceReturned_queue src
  have ha := s.sourceReturned_answers src
  obtain ⟨-, -, -, -, -, -, -, h8, h9, -, -⟩ := id h
  rw [State.sourceReturned_frame]
  exact State.bounded_of_lists h rfl (Nat.le_trans hq h8) (ha ▸ h9)

theorem State.collide_bounded {s : State} (h : s.bounded) (f : Flight) : (s.collide f).bounded := by
  have hr : ((s.withLink s.link.landed).sourceReturned f.source).bounded :=
    State.sourceReturned_bounded (State.withLink_bounded h _) f.source
  unfold State.collide
  dsimp only
  split
  · exact State.bounded_elsewhere hr rfl rfl
  · exact State.bounded_elsewhere hr rfl rfl

theorem State.startPost_bounded {s : State} (h : s.bounded) : s.startPost.bounded := by
  have hq := s.startPost_queue
  have ha : s.startPost.orders.answers = s.orders.answers := by rw [State.startPost_orders]
  rw [State.startPost_frame]
  exact State.bounded_elsewhere h rfl (Prod.ext hq ha)

/-! ## Received posts -/

theorem State.receiveSignal_bounded {s : State} (h : s.bounded) (sender : Station) (flags : FlagSet) (origin : Nat) :
    (s.receiveSignal sender flags origin).bounded := by
  unfold State.receiveSignal
  split
  · obtain ⟨h1, h2, h3, h4, h5, h6, h7, h8, h9, h10, h11⟩ := h
    exact ⟨h1, h2, h3, h4, h5, Store.addReceipt_bound _ _ h6, h7, h8, h9, h10, h11⟩
  · exact h

theorem State.receiveMark_bounded {s : State} (h : s.bounded) (sender : Station) {t0 : Nat} (ht : t0 ≤ 2 ^ 48 - 1) :
    (s.receiveMark sender t0).bounded := by
  unfold State.receiveMark
  split
  · exact State.bounded_elsewhere h rfl rfl
  · obtain ⟨_, h2, h3, h4, h5, h6, h7, h8, h9, h10, h11⟩ := h
    exact ⟨ht, h2, h3, h4, h5, h6, h7, h8, h9, h10, h11⟩

/-! ## Probe inputs -/

/-- A transition of an enabled channel keeps the activity set inside the enabled channels (R4). -/
theorem noteActivity_inside {p : Pfe} {ch : Channel} (h : p.activity &&& ~~~p.enabled = 0)
    (he : hasChannel p.enabled ch = true) : (p.noteActivity ch).activity &&& ~~~(p.noteActivity ch).enabled = 0 := by
  apply BitVec.eq_of_getLsbD_eq
  intro i hi
  have hold : (p.activity &&& ~~~p.enabled).getLsbD i = false := by rw [h]; exact BitVec.getLsbD_zero
  have hone : (oneChannel ch).getLsbD i = true → p.enabled.getLsbD i = true := by
    intro e
    have e' : hasChannel (oneChannel ch) ⟨i, hi⟩ = true := e
    rw [oneChannel_holds, decide_eq_true_eq] at e'
    subst e'
    exact he
  simp only [BitVec.getLsbD_and, BitVec.getLsbD_not, hi, decide_true, Bool.true_and] at hold
  simp only [Pfe.noteActivity, BitVec.getLsbD_and, BitVec.getLsbD_or, BitVec.getLsbD_not, hi, decide_true, Bool.true_and]
  cases ho : (oneChannel ch).getLsbD i with
  | false => simpa using hold
  | true => simp [hone ho]

/-- A cancelled HOLD sample leaves the missed edges (R12). -/
theorem Sampler.cancelHold_missed (p : Sampler) : p.cancelHold.missed = p.missed := by
  unfold Sampler.cancelHold
  split <;> rfl

/-- Counting a transition leaves the missed edges, whatever it does to the waiting ones (R10, R12). -/
theorem Sampler.noteStateTransition_missed (p : Sampler) (ch : Channel) (stamp : Nat) (level qualifier : Bool) :
    (p.noteStateTransition ch stamp level qualifier).missed = p.missed := by
  have hclock : (p.clockMoved stamp).missed = p.missed := by
    unfold Sampler.clockMoved
    split
    · rfl
    · split
      · exact p.cancelHold_missed
      · rfl
  unfold Sampler.noteStateTransition
  split
  · rfl
  split
  · exact hclock
  split <;> rfl

/-- A transition in a capture changes the Sampler alone, and not its missed edges. -/
theorem State.sampledTransition_frame (s : State) (ch : Channel) (level : Bool) :
    s.sampledTransition ch level = { s with sampler := (s.sampledTransition ch level).sampler }
      ∧ (s.sampledTransition ch level).sampler.missed = s.sampler.missed := by
  unfold State.sampledTransition
  split
  · exact ⟨rfl, Sampler.noteStateTransition_missed _ _ _ _ _⟩
  · exact ⟨rfl, rfl⟩

theorem State.sampledTransition_bounded {s : State} (h : s.bounded) (ch : Channel) (level : Bool) :
    (s.sampledTransition ch level).bounded := by
  obtain ⟨hf, hm⟩ := s.sampledTransition_frame ch level
  rw [hf]
  exact State.bounded_elsewhere h (by simp only [State.boundedPart, hm]) rfl

/-- A wake edge returns the node, and its wake action arms it or leaves it (R55). -/
theorem State.wake_bounded {s : State} (h : s.bounded) (ch : Channel) (rising : Bool) : (s.wake ch rising).bounded := by
  obtain ⟨hl, hs⟩ := State.leaveStandby_bounded h
  have hact : s.leaveStandby.wakeAction.1.bounded := by
    unfold State.wakeAction
    split
    · split
      · exact hl
      · exact (State.armEffects_bounded hl hs).1
    · exact hl
  exact State.bounded_elsewhere hact rfl rfl

theorem State.enabledTransition_bounded {s : State} (h : s.bounded) {ch : Channel} (he : hasChannel s.pfe.enabled ch = true)
    (level : Bool) : (s.enabledTransition ch level).bounded := by
  obtain ⟨-, -, -, -, -, -, -, -, -, hact, -⟩ := id h
  have hn := State.sampledTransition_bounded (State.withPfe_bounded h (noteActivity_inside hact he)) ch level
  unfold State.enabledTransition
  dsimp only
  split
  · exact State.wake_bounded hn ch level
  · exact hn

theorem State.moveInput_bounded {s : State} (h : s.bounded) (ch : Channel) (mv : Int) : (s.moveInput ch mv).bounded := by
  obtain ⟨-, -, -, -, -, -, -, -, -, hact, -⟩ := id h
  have hi : (s.withPfe (s.pfe.withInput ch mv)).bounded := State.withPfe_bounded h hact
  unfold State.moveInput
  dsimp only
  split
  · exact hi
  · rename_i hcond
    simp only [Bool.or_eq_true, Bool.not_eq_true', not_or, Bool.not_eq_false] at hcond
    exact State.enabledTransition_bounded hi hcond.2 _

/-! ## Samples -/

/-- A change of the Sampler that leaves its missed edges keeps the bounds. -/
theorem State.withSampler_bounded {s : State} (h : s.bounded) {p : Sampler} (hp : p.missed ≤ 65535) :
    (s.withSampler p).bounded := by
  obtain ⟨h1, h2, h3, h4, h5, h6, _, h8, h9, h10, h11⟩ := h
  exact ⟨h1, h2, h3, h4, h5, h6, hp, h8, h9, h10, h11⟩

/-- The missed edges are at most 65,535 (R14). -/
theorem State.bounded_missed {s : State} (h : s.bounded) : s.sampler.missed ≤ 65535 := by
  obtain ⟨-, -, -, -, -, -, h7, -⟩ := h
  exact h7

theorem State.gridDue_capturing {s : State} (h : s.gridDue = true) : s.capturing = true := by
  simp only [State.gridDue, Bool.and_eq_true] at h
  obtain ⟨⟨⟨⟨-, hc⟩, -⟩, -⟩, -⟩ := h
  exact hc

/-- Where an event is not held back, the reset pin is not held and a capture runs. -/
theorem State.running_of_not_stopped {s : State} (h : ¬(s.resetHeld || !s.capturing) = true) :
    s.resetHeld = false ∧ s.capturing = true := by
  simpa using h

theorem State.edgeDue_capturing {s : State} {e : ClockEdge} (h : s.edgeDue = some e) : s.capturing = true := by
  unfold State.edgeDue at h
  split at h
  · cases h
  · rename_i hn
    exact (State.running_of_not_stopped hn).2

theorem State.holdDue_capturing {s : State} {x : HoldSample} (h : s.holdDue = some x) : s.capturing = true := by
  unfold State.holdDue at h
  split at h
  · cases h
  · rename_i hn
    exact (State.running_of_not_stopped hn).2

theorem State.delayDue_capturing {s : State} {e : DelayEntry} (h : s.delayDue = some e) : s.capturing = true := by
  unfold State.delayDue at h
  split at h
  · cases h
  · rename_i hn
    exact (State.running_of_not_stopped hn).2

/-- A taken edge brings a sample, a pending HOLD sample or an entry of the delay line (R11 to R13). -/
theorem State.takeEdge_bounded {s : State} (h : s.bounded) (hc : s.capturing = true) (e : ClockEdge) :
    (s.takeEdge e).bounded := by
  have hm := State.bounded_missed h
  have hs : (s.withSampler { s.sampler with lastTaken := some e.tick, missSinceTaken := false }).bounded :=
    State.withSampler_bounded h hm
  unfold State.takeEdge
  dsimp only
  split
  · exact State.takeSample_bounded hs hc _
  · exact State.withSampler_bounded h hm
  split
  · exact State.takeSample_bounded hs hc _
  · exact State.withSampler_bounded h hm

theorem State.examineEdge_bounded {s : State} (h : s.bounded) (hc : s.capturing = true) (e : ClockEdge) :
    (s.examineEdge e).bounded := by
  have hm := State.bounded_missed h
  have hjudge : ∀ u : State, u.bounded → u.capturing = true → (u.judgeEdge e).bounded := by
    intro u hu huc
    unfold State.judgeEdge
    split
    · exact hu
    split
    · exact State.takeEdge_bounded hu huc e
    · exact State.bounded_elsewhere
        (State.withSampler_bounded (p := { u.sampler with missed := min Config.countMax (u.sampler.missed + 1) }) hu
          (Nat.min_le_left _ _))
        rfl rfl
  unfold State.examineEdge State.readQualifier
  dsimp only
  split
  · split
    · exact hjudge _ (State.withSampler_bounded (State.withSampler_bounded h hm) hm) hc
    · exact hjudge _ (State.withSampler_bounded h hm) hc
  · exact State.withSampler_bounded h hm

theorem State.activeEdge_bounded {s : State} (h : s.bounded) : s.activeEdge.bounded := by
  unfold State.activeEdge
  split
  · exact h
  · rename_i e he
    exact State.examineEdge_bounded h (State.edgeDue_capturing he) e

theorem State.completeHold_bounded {s : State} (h : s.bounded) (hc : s.capturing = true) (x : HoldSample) :
    (s.completeHold x).bounded := by
  have hm := State.bounded_missed h
  have hs : (s.withSampler { s.sampler with hold := none }).bounded := State.withSampler_bounded h hm
  unfold State.completeHold
  split
  · exact State.takeSample_bounded hs hc _
  · exact State.withSampler_bounded h (by rw [Sampler.cancelHold_missed]; exact hm)

theorem State.completeDelay_bounded {s : State} (h : s.bounded) (hc : s.capturing = true) (e : DelayEntry) :
    (s.completeDelay e).bounded := by
  have hs : (s.withSampler { s.sampler with delayLine := s.sampler.delayLine.drop 1 }).bounded :=
    State.withSampler_bounded h (State.bounded_missed h)
  unfold State.completeDelay
  exact State.takeSample_bounded hs hc _

/-- The sample that is due, whatever brings it, keeps the bounds (log 7). -/
theorem State.dueSample_bounded {s t : State} (h : s.bounded) (ht : s.dueSample = some t) : t.bounded := by
  unfold State.dueSample at ht
  split at ht
  · rename_i hg
    cases ht
    exact State.takeSample_bounded h (State.gridDue_capturing hg) false
  split at ht
  · rename_i x hx
    split at ht
    · cases ht
      exact State.completeHold_bounded h (State.holdDue_capturing hx) x
    · cases ht
  · rename_i e _ he
    cases ht
    exact State.completeDelay_bounded h (State.delayDue_capturing he) e
  · split at ht
    · cases ht
    · cases ht
      exact State.activeEdge_bounded h

/-! ## The readout unit and timers -/

/-- The last reference and the readout unit are none of the bounds' concern. -/
theorem State.finishRead_bounded {s : State} (h : s.bounded) (j : ReadJob) (post : RecordsPost) :
    (s.finishRead j post).bounded := by
  obtain ⟨h1, h2, h3, h4, h5, h6, h7, h8, h9, h10, h11⟩ := h
  exact ⟨h1, h2, h3, h4, h5, h6, h7, h8, h9, h10, h11⟩

theorem State.buildStep_bounded {s : State} (h : s.bounded) (j : ReadJob) : (s.buildStep j).bounded := by
  unfold State.buildStep
  split
  · exact State.finishRead_bounded h _ _
  split
  · exact State.finishRead_bounded h _ _
  · dsimp only
    split
    · exact State.bounded_elsewhere h rfl rfl
    · exact State.finishRead_bounded h _ _

theorem State.endWalk_bounded {s : State} (h : s.bounded) (j : WalkJob) : (s.endWalk j).bounded := by
  unfold State.endWalk
  split
  · exact State.bounded_elsewhere h rfl rfl
  · obtain ⟨h1, h2, h3, h4, h5, h6, h7, h8, h9, h10, h11⟩ := h
    exact ⟨h1, h2, h3, h4, h5, h6, h7, h8, h9, h10, h11⟩

theorem State.loadExpired_bounded {s : State} (h : s.bounded) : s.loadExpired.bounded := by
  unfold State.loadExpired
  split
  · exact State.bounded_elsewhere h rfl rfl
  · exact State.bounded_elsewhere h rfl rfl

theorem State.armLimitDue_capturing {s : State} (h : s.armLimitDue = true) : s.capturing = true := by
  simp only [State.armLimitDue, Bool.and_eq_true, beq_iff_eq] at h
  obtain ⟨⟨-, hs⟩, -⟩ := h
  simp [State.capturing, CapState.capturing, hs]

theorem State.tickLimitDue_capturing {s : State} (h : s.tickLimitDue = true) : s.capturing = true := by
  simp only [State.tickLimitDue, Bool.and_eq_true] at h
  obtain ⟨⟨-, hc⟩, -⟩ := h
  exact hc

/-! ## The reset pin -/

theorem State.holdReset_bounded {s : State} (h : s.bounded) : s.holdReset.bounded := by
  obtain ⟨htick, -⟩ := id h
  exact State.bounded_elsewhere (State.resetNode_bounded s htick) rfl rfl

theorem State.releaseReset_bounded {s : State} (h : s.bounded) (straps : BitVec 4) (rate : BitVec 2) :
    (s.releaseReset straps rate).bounded := by
  obtain ⟨_, h2, h3, h4, h5, h6, h7, h8, h9, h10, h11⟩ := State.holdReset_bounded h
  exact ⟨Nat.zero_le _, h2, h3, h4, h5, h6, h7, h8, h9, h10, h11⟩

/-! ## Commands -/

/-- What a command owes: from a bounded state it leads to a bounded state. -/
def KeepsBounds (f : State → Host.Outcome State Fault Refusal) : Prop := ∀ s t, s.bounded → f s = .next t → t.bounded

/-- A command that always answers its next state. -/
theorem KeepsBounds.of_next {f : State → State} (h : ∀ s, s.bounded → (f s).bounded) : KeepsBounds (fun s => .next (f s)) := by
  intro s t hs ht
  cases ht
  exact h s hs

/-- An order whose judge keeps the bounds. -/
theorem KeepsBounds.order (code : Byte) (o : OrderPost) (fits : Bool) {judge : State → Judged} (hj : JudgeKeepsBounds judge) :
    KeepsBounds (fun s => .next (s.takeOrder code o fits judge)) :=
  KeepsBounds.of_next (fun _ h => State.takeOrder_bounded h code o fits judge hj)

theorem execReset_bounded (o : OrderPost) : KeepsBounds (execReset o) :=
  KeepsBounds.of_next (fun _ h => State.takeReset_bounded h o)

theorem execUnknownOrder_bounded (sender : Station) (toAll : Bool) (payload : List Byte) :
    KeepsBounds (execUnknownOrder sender toAll payload) := by
  unfold execUnknownOrder
  split
  · exact KeepsBounds.order _ _ _ refuseUnknown_bounded
  · refine KeepsBounds.of_next (fun s h => ?_)
    split
    · exact (State.leaveStandby_bounded (s := s.hearPost) h).1
    · exact h

theorem execSignalReceipt_bounded (sender : Station) (flags : FlagSet) (origin : BitVec 48) :
    KeepsBounds (execSignalReceipt sender flags origin) := by
  refine KeepsBounds.of_next (fun s h => ?_)
  split
  · exact State.receiveSignal_bounded (s := s.hearPost) h _ _ _
  · exact h

theorem execMark_bounded (sender : Station) (t0 : BitVec 48) : KeepsBounds (execMark sender t0) := by
  refine KeepsBounds.of_next (fun s h => ?_)
  split
  · exact State.receiveMark_bounded (s := s.hearPost) h _ (Nat.le_sub_one_of_lt t0.isLt)
  · exact h

/-- An order that arrives as bytes is the order of its code (R171). -/
theorem deliverOrder_bounded (code : Byte) (o : OrderPost) : KeepsBounds (deliverOrder code o) := by
  unfold deliverOrder
  split
  · exact KeepsBounds.order _ o _ (judgeConfigureChannels_bounded o)
  · exact KeepsBounds.order _ o _ (judgeSetSampling_bounded o)
  · exact KeepsBounds.order _ o _ (judgeSetCapture_bounded o)
  · exact KeepsBounds.order _ o _ (judgeSetCounter_bounded o)
  · exact KeepsBounds.order _ o _ (judgeSetDecoder_bounded o)
  · exact KeepsBounds.order _ o _ (judgeLoadBegin_bounded o)
  · exact KeepsBounds.order _ o _ (judgeLoadPart_bounded o)
  · exact KeepsBounds.order _ o _ (judgeArm_bounded o)
  · exact KeepsBounds.order _ o _ judgeForceTrigger_bounded
  · exact KeepsBounds.order _ o _ judgeAbort_bounded
  · exact KeepsBounds.order _ o _ judgeRelease_bounded
  · exact KeepsBounds.order _ o _ (judgeStandby_bounded o)
  · split
    · exact KeepsBounds.order _ o _ (judgeStream_bounded o)
    · exact KeepsBounds.order _ o _ (judgeStream_bounded o)
  · exact KeepsBounds.order _ o _ (judgeReduce_bounded o)
  · exact KeepsBounds.order _ o _ (judgeReduceCancel_bounded o)
  · exact KeepsBounds.order _ o _ (judgeReadRecords_bounded o)
  · exact KeepsBounds.order _ o _ (judgeSearch_bounded o)
  · exact KeepsBounds.order _ o _ (judgeQuery_bounded o)
  · exact KeepsBounds.order _ o _ judgeReadFault_bounded
  · exact KeepsBounds.order _ o _ judgeClearFault_bounded
  · exact execReset_bounded o
  · exact execUnknownOrder_bounded _ _ _

theorem deliverPayload_bounded (p : HeardPost) : KeepsBounds (deliverPayload p) := by
  unfold deliverPayload
  split
  · exact deliverOrder_bounded _ _
  · exact execUnknownOrder_bounded _ _ _

/-- A post that was only heard changes the link. -/
theorem hearPost_bounded : KeepsBounds (fun s => .next s.hearPost) := KeepsBounds.of_next (fun _ h => h)

theorem deliverPost_bounded (p : HeardPost) : KeepsBounds (deliverPost p) := by
  unfold deliverPost
  split
  · exact execMark_bounded _ _
  · exact execSignalReceipt_bounded _ _ _
  · intro s t h ht
    dsimp only at ht
    split at ht
    · exact deliverPayload_bounded p s t h ht
    · exact hearPost_bounded s t h ht
  · exact hearPost_bounded

theorem execPostDiscarded_bounded (bytes : List Byte) : KeepsBounds (execPostDiscarded bytes) := by
  intro s t h ht
  unfold execPostDiscarded at ht
  split at ht
  · split at ht
    · exact hearPost_bounded s t h ht
    · exact deliverPost_bounded _ s t h ht
  · cases ht
    exact h

/-! ## Events -/

theorem execSample_bounded : KeepsBounds execSample := by
  refine KeepsBounds.of_next (fun s h => ?_)
  split
  · rename_i hg
    exact State.takeSample_bounded h (State.gridDue_capturing hg) false
  · exact h

theorem execHoldSampleDue_bounded : KeepsBounds execHoldSampleDue := by
  refine KeepsBounds.of_next (fun s h => ?_)
  cases hd : s.holdDue with
  | none => exact h
  | some x => exact State.completeHold_bounded h (State.holdDue_capturing hd) x

theorem execDelayLineDue_bounded : KeepsBounds execDelayLineDue := by
  refine KeepsBounds.of_next (fun s h => ?_)
  cases hd : s.delayDue with
  | none => exact h
  | some e => exact State.completeDelay_bounded h (State.delayDue_capturing hd) e

theorem execInterlockedTimeout_bounded (slot : Fin 4) : KeepsBounds (execInterlockedTimeout slot) := by
  refine KeepsBounds.of_next (fun s h => ?_)
  split
  · cases hd : s.dueSample with
    | none => exact h
    | some t => exact State.dueSample_bounded h hd
  · exact h

/-- A TICK occurrence counted by itself changes the Counter Bank alone (R61). -/
theorem execCounterExpiry_bounded (k : Fin 4) : KeepsBounds (execCounterExpiry k) := by
  refine KeepsBounds.of_next (fun s h => ?_)
  split
  · exact State.bounded_elsewhere h rfl rfl
  · exact h

theorem execCounterOverflow_bounded (k : Fin 4) : KeepsBounds (execCounterOverflow k) := by
  refine KeepsBounds.of_next (fun s h => ?_)
  split
  · exact State.bounded_elsewhere h rfl rfl
  · exact h

theorem execDepth_bounded : KeepsBounds execDepth := by
  refine KeepsBounds.of_next (fun s h => ?_)
  split
  · exact h
  split
  · rename_i hn _
    exact State.endCapture_bounded h (State.running_of_not_stopped hn).2 .depth
  · cases hd : s.dueSample with
    | none => exact h
    | some t =>
      dsimp only
      split
      · exact State.dueSample_bounded h hd
      · exact h

theorem execNoTrigger_bounded : KeepsBounds execNoTrigger := by
  refine KeepsBounds.of_next (fun s h => ?_)
  split
  · rename_i hd
    exact State.endCapture_bounded h (State.armLimitDue_capturing hd) .noTrigger
  · exact h

theorem execTimeLimit_bounded : KeepsBounds execTimeLimit := by
  refine KeepsBounds.of_next (fun s h => ?_)
  split
  · rename_i hd
    exact State.endCapture_bounded h (State.tickLimitDue_capturing hd) .timeLimit
  · exact h

theorem execLoadTimeout_bounded : KeepsBounds execLoadTimeout := by
  refine KeepsBounds.of_next (fun s h => ?_)
  split
  · exact State.loadExpired_bounded h
  · exact h

theorem execBatchTimeout_bounded : KeepsBounds execBatchTimeout := by
  refine KeepsBounds.of_next (fun s h => ?_)
  split
  · exact State.bounded_elsewhere h rfl rfl
  · exact h

theorem execRepeatTimerExpiry_bounded : KeepsBounds execRepeatTimerExpiry := by
  refine KeepsBounds.of_next (fun s h => ?_)
  cases s.repeatDue with
  | none => exact h
  | some r => exact State.bounded_elsewhere h rfl rfl

theorem execReadBuild_bounded : KeepsBounds execReadBuild := by
  refine KeepsBounds.of_next (fun s h => ?_)
  split
  · split
    · exact h
    · exact State.buildStep_bounded h _
  all_goals exact h

theorem execSearchWalkEnd_bounded : KeepsBounds execSearchWalkEnd := by
  refine KeepsBounds.of_next (fun s h => ?_)
  split
  · split
    · exact h
    · exact State.endWalk_bounded h _
  all_goals exact h

theorem execLineIdle_bounded : KeepsBounds execLineIdle := by
  refine KeepsBounds.of_next (fun s h => ?_)
  split
  · exact h
  · exact State.bounded_elsewhere h rfl rfl

theorem execPostStart_bounded : KeepsBounds execPostStart := by
  refine KeepsBounds.of_next (fun s h => ?_)
  split
  · exact State.startPost_bounded h
  · exact h

theorem execSentInFull_bounded : KeepsBounds execSentInFull := by
  refine KeepsBounds.of_next (fun s h => ?_)
  split
  · exact h
  · exact State.sourceSent_bounded (State.withLink_bounded h _) _

theorem execWithdrawn_bounded : KeepsBounds execWithdrawn := by
  refine KeepsBounds.of_next (fun s h => ?_)
  split
  · exact h
  · exact State.sourceReturned_bounded (State.withLink_bounded h _) _

theorem execCollision_bounded : KeepsBounds execCollision := by
  refine KeepsBounds.of_next (fun s h => ?_)
  split
  · exact h
  · exact State.collide_bounded h _

theorem execResetPinRelease_bounded (straps : BitVec 4) (rate : BitVec 2) :
    KeepsBounds (execResetPinRelease straps rate) := by
  refine KeepsBounds.of_next (fun s h => ?_)
  split
  · exact State.releaseReset_bounded h _ _
  · exact h

/-- Every command keeps the bounds. -/
theorem exec_bounded (i : Instr) : KeepsBounds (exec i) := by
  cases i with
  | configureChannels o => exact KeepsBounds.order _ o _ (judgeConfigureChannels_bounded o)
  | setSampling o => exact KeepsBounds.order _ o _ (judgeSetSampling_bounded o)
  | setCapture o => exact KeepsBounds.order _ o _ (judgeSetCapture_bounded o)
  | setCounter o => exact KeepsBounds.order _ o _ (judgeSetCounter_bounded o)
  | setDecoder o => exact KeepsBounds.order _ o _ (judgeSetDecoder_bounded o)
  | loadBegin o => exact KeepsBounds.order _ o _ (judgeLoadBegin_bounded o)
  | loadPart o => exact KeepsBounds.order _ o _ (judgeLoadPart_bounded o)
  | arm o => exact KeepsBounds.order _ o _ (judgeArm_bounded o)
  | forceTrigger o => exact KeepsBounds.order _ o _ judgeForceTrigger_bounded
  | abort o => exact KeepsBounds.order _ o _ judgeAbort_bounded
  | release o => exact KeepsBounds.order _ o _ judgeRelease_bounded
  | standby o => exact KeepsBounds.order _ o _ (judgeStandby_bounded o)
  | streamOn o => exact KeepsBounds.order _ o _ (judgeStream_bounded o)
  | streamOff o => exact KeepsBounds.order _ o _ (judgeStream_bounded o)
  | reduce o => exact KeepsBounds.order _ o _ (judgeReduce_bounded o)
  | reduceCancel o => exact KeepsBounds.order _ o _ (judgeReduceCancel_bounded o)
  | readRecords o => exact KeepsBounds.order _ o _ (judgeReadRecords_bounded o)
  | search o => exact KeepsBounds.order _ o _ (judgeSearch_bounded o)
  | query o => exact KeepsBounds.order _ o _ (judgeQuery_bounded o)
  | readFault o => exact KeepsBounds.order _ o _ judgeReadFault_bounded
  | clearFault o => exact KeepsBounds.order _ o _ judgeClearFault_bounded
  | reset o => exact execReset_bounded o
  | unknownOrder sender toAll payload => exact execUnknownOrder_bounded sender toAll payload
  | signalReceipt sender flags origin => exact execSignalReceipt_bounded sender flags origin
  | mark sender t0 => exact execMark_bounded sender t0
  | postDiscarded bytes => exact execPostDiscarded_bounded bytes
  | transition ch mv => exact KeepsBounds.of_next (fun _ h => State.moveInput_bounded h ch mv)
  | sample => exact execSample_bounded
  | activeEdge => exact KeepsBounds.of_next (fun _ h => State.activeEdge_bounded h)
  | holdSampleDue => exact execHoldSampleDue_bounded
  | delayLineDue => exact execDelayLineDue_bounded
  | interlockedTimeout slot => exact execInterlockedTimeout_bounded slot
  | counterExpiry k => exact execCounterExpiry_bounded k
  | counterOverflow k => exact execCounterOverflow_bounded k
  | depth => exact execDepth_bounded
  | noTrigger => exact execNoTrigger_bounded
  | timeLimit => exact execTimeLimit_bounded
  | loadTimeout => exact execLoadTimeout_bounded
  | batchTimeout => exact execBatchTimeout_bounded
  | repeatTimerExpiry => exact execRepeatTimerExpiry_bounded
  | readBuild => exact execReadBuild_bounded
  | searchWalkEnd => exact execSearchWalkEnd_bounded
  | lineIdle => exact execLineIdle_bounded
  | postStart => exact execPostStart_bounded
  | sentInFull => exact execSentInFull_bounded
  | withdrawn => exact execWithdrawn_bounded
  | collision => exact execCollision_bounded
  | resetPin => exact KeepsBounds.of_next (fun _ h => State.holdReset_bounded h)
  | resetPinRelease straps rate => exact execResetPinRelease_bounded straps rate

/-! ## Ticks and steps -/

/-- The tick counter stops at 2^48-1 (R166). -/
theorem nextTick_bound {t : Nat} (h : t ≤ 2 ^ 48 - 1) : nextTick t ≤ 2 ^ 48 - 1 := by
  unfold nextTick
  split
  · rename_i hlt
    exact hlt
  · exact h

theorem State.holdInstant_bounded {s : State} (h : s.bounded) : s.holdInstant.bounded := by
  have hm := State.bounded_missed h
  unfold State.holdInstant
  split
  · exact h
  split
  · exact h
  · exact State.withSampler_bounded h (by rw [Sampler.cancelHold_missed]; exact hm)

theorem State.passTick_bounded {s : State} (h : s.bounded) : s.passTick.bounded := by
  have moved : ∀ u : State, u.bounded → ∀ e, (u.withTime ⟨nextTick u.time.tick, e⟩).bounded := by
    rintro u ⟨h1, h2, h3, h4, h5, h6, h7, h8, h9, h10, h11⟩ e
    exact ⟨nextTick_bound h1, h2, h3, h4, h5, h6, h7, h8, h9, h10, h11⟩
  unfold State.passTick
  split
  · obtain ⟨h1, h2, h3, h4, h5, h6, h7, h8, h9, h10, h11⟩ := h
    exact ⟨h1, h2, h3, h4, h5, h6, h7, h8, h9, h10, h11⟩
  · have ht := moved (s.holdInstant.withCounters s.holdInstant.counters.actGates)
      (State.bounded_elsewhere (State.holdInstant_bounded h) rfl rfl) (s.holdInstant.time.elapsed + 1)
    unfold State.offerReady
    dsimp only
    split
    · exact State.bounded_elsewhere ht rfl rfl
    · exact ht

/-- The queue of commands is none of the bounds' concern. -/
theorem State.withPending_bounded {s : State} (h : s.bounded) (q : List Instr) : (s.withPending q).bounded :=
  State.bounded_elsewhere h rfl rfl

/-- Settles O58, by the command, the due event or the passing tick that the step takes. -/
theorem boundedStatesStayBounded : Obligations.BoundedStatesStayBounded := by
  intro s t h ht
  unfold step at ht
  split at ht
  · exact exec_bounded _ _ t (State.withPending_bounded h _) ht
  split at ht
  · exact exec_bounded _ s t h ht
  · cases ht
    exact State.passTick_bounded h

end Sys2Proof.Machine

/-! SUPPORT. The reset values, the run former, and the orders that set the probe inputs and the Sampler. -/

namespace Sys2Proof.Machine

/-! ## Reset values -/

/-- After a reset PRESENT alone is pending (R183). -/
theorem NoticeSet.reset_holds (k : NoticeKind) : NoticeSet.reset.holds k = (k == .present) := by
  cases k <;> rfl

/-- Settles O3, block by block: each value stands in its block's reset value. -/
theorem resetLeavesTheManualsValues : Obligations.ResetLeavesTheManualsValues := by
  have counters (k : Fin 4) : State.reset.counters.k.get k = .reset := Quad.get_fill _ k
  have slots (d : Fin 4) : State.reset.decoders.slots.get d = .reset := Quad.get_fill _ d
  refine ⟨rfl, rfl, rfl, rfl, rfl, rfl, rfl, rfl, rfl, rfl, rfl, rfl, rfl, rfl, rfl, rfl, rfl, rfl, rfl, rfl, ?_, rfl,
    rfl, rfl, rfl, rfl, rfl, rfl, rfl, rfl, rfl, rfl, slots, rfl, rfl, rfl, rfl, rfl, rfl, rfl, rfl, rfl, rfl, rfl, rfl,
    rfl, rfl, rfl, rfl, NoticeSet.reset_holds, rfl, rfl, rfl⟩
  intro k
  rw [counters k]
  exact ⟨rfl, rfl, rfl, rfl, rfl, rfl, rfl⟩

/-! ## The run former -/

/-- The run that a sample extends (R15, R16). -/
theorem Run.accepts_iff (r : Run) (x : Sample) (isTrigger : Bool) :
    r.accepts x isTrigger = true ↔ isTrigger = false ∧ r.value = x.value ∧ r.mask = x.mask ∧ r.length < 65535 := by
  simp [Run.accepts, and_assoc]

/-- Settles O55, by whether a run is open and, if so, whether it accepts the sample. -/
theorem runsFormFromEqualSamples : Obligations.RunsFormFromEqualSamples := by
  intro p x isTrigger
  refine ⟨fun hnone => ?_, fun r hr => ⟨fun hk hv hm hl => ?_, fun hother => ?_⟩⟩
  · unfold Sampler.formRun
    rw [hnone]
    rfl
  · have hacc : r.accepts x isTrigger = true := (r.accepts_iff x isTrigger).2 ⟨hk, hv, hm, hl⟩
    unfold Sampler.formRun
    rw [hr]
    exact if_pos hacc
  · have hacc : ¬r.accepts x isTrigger = true := by
      rw [r.accepts_iff]
      rintro ⟨hk, hv, hm, hl⟩
      rcases hother with h | h | h | h
      · rw [h] at hk
        cases hk
      · exact h hv
      · exact h hm
      · omega
    unfold Sampler.formRun
    rw [hr]
    exact if_neg hacc

/-! ## Orders in a capture -/

section InCapture
variable {s : State} (o : OrderPost) (hc : s.capturing = true)
include hc

theorem judgeConfigureChannels_capturing : judgeConfigureChannels o s = s.refuse .state := if_pos hc
theorem judgeSetSampling_capturing : judgeSetSampling o s = s.refuse .state := if_pos hc
theorem judgeSetCapture_capturing : judgeSetCapture o s = s.refuse .state := if_pos hc
theorem judgeSetCounter_capturing : judgeSetCounter o s = s.refuse .state := if_pos hc
theorem judgeLoadBegin_capturing : judgeLoadBegin o s = s.refuse .state := if_pos hc
theorem judgeArm_capturing : judgeArm o s = s.refuse .state := if_pos hc
theorem judgeSearch_capturing : judgeSearch o s = s.refuse .state := if_pos hc

/-- A known kind of the right length meets the state next (R171 step 4). -/
theorem judgeSetDecoder_capturing (hl : decoderLength (paramNat o 3) = some o.params.length) :
    judgeSetDecoder o s = s.refuse .state := by
  unfold judgeSetDecoder
  rw [hl]
  exact (if_neg (fun h => h rfl)).trans (if_pos hc)

/-- In a capture the node is not DONE, so there is nothing to release (R51). -/
theorem judgeRelease_capturing : judgeRelease s = s.refuse .state := by
  refine if_neg (fun hd => ?_)
  rw [State.capturing, hd] at hc
  cases hc

/-- The member count and the length are judged before the state (R52). -/
theorem judgeStandby_capturing (hn : paramNat o 3 ≤ 16) (hl : o.params.length = 2 + paramNat o 3) :
    judgeStandby o s = s.refuse .state := by
  unfold judgeStandby
  rw [if_neg (Nat.not_lt.2 hn), if_neg (fun h => h hl), if_pos hc]

end InCapture

/-- A SET_DECODER of a known kind holds its kind byte (R170). -/
theorem decoderLength_two_le {kind n : Nat} (h : decoderLength kind = some n) : 2 ≤ n := by
  unfold decoderLength at h
  split at h <;> cases h <;> decide

/-- A ready order of the right length that its rule refuses is answered, and nothing else happens (R174). -/
theorem State.takeOrder_refuses {s : State} {o : OrderPost} (h : s.orderReady o) (code : Byte) {fits : Bool}
    (hf : fits = true) {judge : State → Judged} {why : Status}
    (hj : judge { s with link := s.heardLink } = State.refuse { s with link := s.heardLink } why) :
    (Host.Outcome.next (s.takeOrder code o fits judge) : Host.Outcome State Fault Refusal)
      = .next (s.onlyAnswered o code why 0) := by
  subst hf
  rw [State.takeOrder_refused h code judge why hj]

/-- Settles O10: each judge's first question in a capture is the state. -/
theorem settingOrdersAreRefusedInCapture : Obligations.SettingOrdersAreRefusedInCapture := by
  intro o s h hc
  refine ⟨fun hl => ?_, fun hl => ?_, fun hl => ?_, fun hl => ?_, fun hl => ?_, fun hl => ?_, fun hl => ?_, fun hl => ?_,
    fun hn hl => ?_, fun hl => ?_⟩
  · exact State.takeOrder_refuses h _ (beq_iff_eq.2 hl) (judgeConfigureChannels_capturing o hc)
  · exact State.takeOrder_refuses h _ (beq_iff_eq.2 hl) (judgeSetSampling_capturing o hc)
  · exact State.takeOrder_refuses h _ (beq_iff_eq.2 hl) (judgeSetCapture_capturing o hc)
  · exact State.takeOrder_refuses h _ (beq_iff_eq.2 hl) (judgeSetCounter_capturing o hc)
  · exact State.takeOrder_refuses h _ (decide_eq_true (decoderLength_two_le hl)) (judgeSetDecoder_capturing o hc hl)
  · exact State.takeOrder_refuses h _ (beq_iff_eq.2 hl) (judgeLoadBegin_capturing o hc)
  · exact State.takeOrder_refuses h _ (beq_iff_eq.2 hl) (judgeArm_capturing o hc)
  · exact State.takeOrder_refuses h _ (beq_iff_eq.2 hl) (judgeRelease_capturing hc)
  · exact State.takeOrder_refuses h _ (decide_eq_true (hl ▸ Nat.le_add_right _ _)) (judgeStandby_capturing o hc hn hl)
  · exact State.takeOrder_refuses h _ (beq_iff_eq.2 hl) (judgeSearch_capturing o hc)

/-! ## Orders that are taken -/

/-- A ready order of the right length leaves its judge's state with its answer (R172). -/
theorem State.takeOrder_taken {s : State} {o : OrderPost} (h : s.orderReady o) (code : Byte) {fits : Bool}
    (hf : fits = true) (judge : State → Judged) :
    s.takeOrder code o fits judge = (judge { s with link := s.heardLink }).settle code o := by
  subst hf
  rw [State.takeOrder_ready h, if_pos rfl]

/-! ### CONFIGURE_CHANNELS -/

/-- The group set has no bit above 3 (R3). -/
theorem groupSetFits_iff (o : OrderPost) : groupSetFits o = true ↔ paramNat o 6 < 16 := by
  have hb : paramNat o 6 < 256 := (paramByte o 6).isLt
  unfold paramNat at hb ⊢
  simp only [groupSetFits, bitsOf, beq_iff_eq]
  omega

/-- Settles O11, by the group set. -/
theorem configureChannelsTaken : Obligations.ConfigureChannelsTaken := by
  intro o s h hl hc
  have hc' : ¬State.capturing { s with link := s.heardLink } = true := by
    rw [Bool.not_eq_true]
    exact hc
  refine ⟨fun hset => ?_, fun hset => ?_⟩
  · have hg : (!groupSetFits o) = true := by
      rw [Bool.not_eq_true', ← Bool.not_eq_true, groupSetFits_iff]
      omega
    exact State.takeOrder_refuses h _ (beq_iff_eq.2 hl) ((if_neg hc').trans (if_pos hg))
  · have hg : ¬(!groupSetFits o) = true := by
      rw [(groupSetFits_iff o).2 hset]
      decide
    have hj : judgeConfigureChannels o { s with link := s.heardLink }
        = (State.withPfe { s with link := s.heardLink } (s.pfe.configure o)).okOrClamped (thresholdsClamped o) :=
      (if_neg hc').trans (if_neg hg)
    refine ⟨s.takeOrder 0x01 o (o.params.length == 13) (judgeConfigureChannels o), rfl, ?_⟩
    rw [State.takeOrder_taken h _ (beq_iff_eq.2 hl), hj, Judged.settle_eq]
    exact ⟨rfl, rfl, rfl, fun g => Quad.get_mapIdx _ _ g, rfl, rfl, rfl⟩

/-! ### SET_SAMPLING -/

/-- Channel numbers are those up to 15 (R170). -/
theorem channelOf_eq_some {n : Nat} {ch : Channel} : channelOf n = some ch ↔ ch.val = n := by
  unfold channelOf
  split
  · simp only [Option.some.injEq, Fin.ext_iff]
    exact eq_comm
  · rename_i hn
    have := ch.isLt
    exact ⟨nofun, fun h => by omega⟩

theorem sampleModeOf_eq_some {n : Nat} {m : SampleMode} :
    sampleModeOf n = some m ↔ n ≤ 1 ∧ m = if n = 0 then .timing else .state := by
  match n with
  | 0 | 1 => simp [sampleModeOf, eq_comm]
  | n + 2 => simp [sampleModeOf]

theorem multiplierOf_eq_some {n m : Nat} : multiplierOf n = some m ↔ n ≤ 3 ∧ m = 10 ^ n := by
  match n with
  | 0 | 1 | 2 | 3 => simp [multiplierOf, eq_comm]
  | n + 4 => simp [multiplierOf]

theorem edgeOfCode_isSome (n : Nat) : (edgeOfCode n).isSome = true ↔ n ≤ 2 := by
  match n with
  | 0 | 1 | 2 => simp [edgeOfCode]
  | n + 3 => simp [edgeOfCode]

theorem clockTypeOf_isSome (n : Nat) : (clockTypeOf n).isSome = true ↔ n ≤ 2 := by
  match n with
  | 0 | 1 | 2 => simp [clockTypeOf]
  | n + 3 => simp [clockTypeOf]

/-- Clock type code 1 is HOLD (R170). -/
theorem clockTypeOf_hold {n : Nat} {t : ClockType} (h : clockTypeOf n = some t) : t = .hold ↔ n = 1 := by
  match n with
  | 0 | 1 | 2 => cases h; decide
  | n + 3 => cases h

/-- The qualifier byte: presence in bit 7, level in bit 6, bit 5 zero, the channel below (R170). -/
theorem qualifierByte_bits (b : Byte) :
    (bitsOf b 5 1 = 0 ∧ bitsOf b 0 5 < 16 ↔ b.toNat % 64 < 16) ∧ (b.toNat % 64 < 16 → bitsOf b 0 5 = b.toNat % 64)
      ∧ (bitsOf b 7 1 = 1 ↔ 128 ≤ b.toNat) ∧ bitsOf b 6 1 = b.toNat / 64 % 2 := by
  have hb : b.toNat < 256 := b.isLt
  unfold bitsOf
  refine ⟨⟨fun h => ?_, fun h => ?_⟩, fun h => ?_, ?_, ?_⟩ <;> omega

/-- The settings are those that the bytes of a SET_SAMPLING hold (R5, R170). -/
structure SamplingReads (o : OrderPost) (c : SamplerSettings) : Prop where
  mode : c.mode = if paramNat o 2 = 0 then .timing else .state
  divisor : c.divisor = if paramField o 3 2 = 0 then 65536 else paramField o 3 2
  clockChannel : c.clockChannel.val = paramNat o 5
  clockEdge : edgeOfCode (paramNat o 6) = some c.clockEdge
  qualifier : c.qualifier.map Fin.val = if 128 ≤ paramNat o 7 then some (paramNat o 7 % 64) else none
  qualifyingLevel : c.qualifyingLevel = decide (paramNat o 7 / 64 % 2 = 1)
  clockType : clockTypeOf (paramNat o 8) = some c.clockType
  tdFactor : c.tdFactor = if paramNat o 8 = 1 then max 2 (paramNat o 9) else paramNat o 9
  tdMultiplier : c.tdMultiplier = 10 ^ paramNat o 10

/-- A SET_SAMPLING whose fields fit gives the settings that its bytes hold (R5). -/
theorem samplingOf_fits {o : OrderPost} (h : samplingFits o) : ∃ c, samplingOf o = some c ∧ SamplingReads o c := by
  obtain ⟨hmode, hclock, hedge, hqual, htype, hfactor, hmult, hdiff⟩ := h
  obtain ⟨hbits, hchan, hpresent, hlevel⟩ := qualifierByte_bits (paramByte o 7)
  obtain ⟨hzero, hsmall⟩ := hbits.2 hqual
  obtain ⟨edge, he⟩ := Option.isSome_iff_exists.1 ((edgeOfCode_isSome _).2 hedge)
  obtain ⟨type, ht⟩ := Option.isSome_iff_exists.1 ((clockTypeOf_isSome _).2 htype)
  have hm := sampleModeOf_eq_some.2 ⟨hmode, rfl⟩
  have hc : channelOf (paramNat o 5) = some ⟨_, hclock⟩ := channelOf_eq_some.2 rfl
  have hq : channelOf (bitsOf (paramByte o 7) 0 5) = some ⟨_, hqual⟩ := channelOf_eq_some.2 (hchan hqual).symm
  have hx := multiplierOf_eq_some.2 ⟨hmult, rfl⟩
  have hne : ¬((bitsOf (paramByte o 7) 7 1 == 1 && (⟨_, hqual⟩ : Channel) == ⟨_, hclock⟩) = true) := by
    simp only [Bool.and_eq_true, beq_iff_eq, Fin.mk.injEq, hpresent]
    exact hdiff
  unfold samplingOf
  simp only [hm, hc, he, hzero, hq, ht, hfactor, hx, if_true, Option.bind_eq_bind, Option.bind_some, if_neg hne]
  refine ⟨_, rfl, rfl, rfl, rfl, he, ?_, ?_, ht, ?_, rfl⟩
  · dsimp only
    by_cases hp : 128 ≤ paramNat o 7
    · rw [if_pos hp, if_pos (beq_iff_eq.2 (hpresent.2 hp))]
      rfl
    · rw [if_neg hp, if_neg (fun e => hp (hpresent.1 (beq_iff_eq.1 e)))]
      rfl
  · dsimp only
    rw [hlevel]
    exact beq_eq_decide _ _
  · simp only [appliedFactor, clockTypeOf_hold ht]

/-- A SET_SAMPLING that gives settings has fields that fit (R5). -/
theorem samplingFits_of_some {o : OrderPost} {c : SamplerSettings} (h : samplingOf o = some c) : samplingFits o := by
  obtain ⟨hbits, hchan, hpresent, -⟩ := qualifierByte_bits (paramByte o 7)
  unfold samplingOf at h
  simp only [Option.bind_eq_bind, Option.bind_eq_some_iff] at h
  obtain ⟨mode, hm, clock, hc, edge, he, h⟩ := h
  split at h
  swap
  · rw [Option.bind_none] at h
    cases h
  rename_i hzero
  obtain ⟨qual, hq, h⟩ := Option.bind_eq_some_iff.1 h
  obtain ⟨type, ht, h⟩ := Option.bind_eq_some_iff.1 h
  split at h
  swap
  · rw [Option.bind_none] at h
    cases h
  rename_i hfactor
  rw [Option.bind_some] at h
  obtain ⟨mult, hx, h⟩ := Option.bind_eq_some_iff.1 h
  split at h
  · cases h
  rename_i hne
  have hqv := channelOf_eq_some.1 hq
  have hcv := channelOf_eq_some.1 hc
  have hqual : paramNat o 7 % 64 < 16 := hbits.1 ⟨hzero, by rw [← hqv]; exact qual.isLt⟩
  refine ⟨(sampleModeOf_eq_some.1 hm).1, by rw [← hcv]; exact clock.isLt,
    (edgeOfCode_isSome _).1 (Option.isSome_iff_exists.2 ⟨_, he⟩), hqual,
    (clockTypeOf_isSome _).1 (Option.isSome_iff_exists.2 ⟨_, ht⟩), hfactor, (multiplierOf_eq_some.1 hx).1, ?_⟩
  rintro ⟨hp, heq⟩
  refine hne ?_
  simp only [Bool.and_eq_true, beq_iff_eq, Fin.ext_iff]
  exact ⟨hpresent.2 hp, by rw [hqv, hcv, hchan hqual]; exact heq⟩

/-- HOLD with a factor below 2 is what is answered CLAMPED (R5). -/
theorem samplingClamped_iff (o : OrderPost) : samplingClamped o = true ↔ paramNat o 8 = 1 ∧ paramNat o 9 < 2 := by
  simp [samplingClamped]

/-- Settles O12, by whether the fields fit. -/
theorem setSamplingTaken : Obligations.SetSamplingTaken := by
  intro o s h hl hc
  have hc' : ¬State.capturing { s with link := s.heardLink } = true := by
    rw [Bool.not_eq_true]
    exact hc
  refine ⟨fun hno => ?_, fun hfits => ?_⟩
  · have hnone : samplingOf o = none := Option.eq_none_iff_forall_ne_some.2 (fun c hs => hno (samplingFits_of_some hs))
    refine State.takeOrder_refuses h _ (beq_iff_eq.2 hl) ((if_neg hc').trans ?_)
    rw [hnone]
  · obtain ⟨c, hsome, hreads⟩ := samplingOf_fits hfits
    have hj : judgeSetSampling o { s with link := s.heardLink } = State.okOrClamped
        { s with link := s.heardLink, sampler := { s.sampler with settings := c } } (samplingClamped o) := by
      refine (if_neg hc').trans ?_
      rw [hsome]
      rfl
    obtain ⟨hmode, hdivisor, hclock, hedge, hqual, hlevel, htype, hfactor, hmult⟩ := hreads
    refine ⟨s.takeOrder 0x02 o (o.params.length == 9) (judgeSetSampling o), rfl, ?_⟩
    rw [State.takeOrder_taken h _ (beq_iff_eq.2 hl), hj, Judged.settle_eq]
    refine ⟨?_, hmode, hdivisor, hclock, hedge, hqual, hlevel, htype, hfactor, hmult⟩
    simp only [State.okOrClamped, samplingClamped_iff]
    rfl

end Sys2Proof.Machine

/-! SUPPORT. The samples of a capture: the grid, the clock edges, the HOLD sample and the delay line. -/

namespace Sys2Proof.Machine

/-! ## The Sampler after a sample -/

/-- A capture that goes on at a sample is not DONE (R45, R47). -/
theorem State.sampleCapture_state {s : State} (hc : s.capturing = true) : s.sampleCapture.state ≠ .done := by
  have hs : s.capture.state ≠ .done := by
    intro hd
    rw [State.capturing, hd] at hc
    cases hc
  unfold State.sampleCapture
  split
  · exact nofun
  split
  · exact hs
  · exact hs

/-- After a sample the Sampler has taken it, with the missed edges written or not (R14); a capture that the sample ends stops the
Sampler, and one that goes on does not (R17). -/
theorem State.takeSample_sampler_cases {s : State} (hc : s.capturing = true) (a : Bool) :
    ∃ p : Sampler, (p = s.sampler.afterSample s.readSample s.sampleRun.2
        ∨ p = (s.sampler.afterSample s.readSample s.sampleRun.2).missesWritten)
      ∧ (((s.takeSample a).capture.state = .done ∧ (s.takeSample a).sampler = p.stop)
        ∨ ((s.takeSample a).capture.state ≠ .done ∧ (s.takeSample a).sampler = p)) := by
  refine ⟨(s.beforeSettle a).sampler, ?_, ?_⟩
  · rw [State.beforeSettle_sampler]
    exact State.writeSample_sampler _ _ _ _ _ _ _
  · rcases State.settle_cases (s := s) a with ⟨-, h, -⟩ | ⟨-, -, h⟩ | ⟨-, -, h, -⟩
    · rw [h, State.endCapture_sampler, State.endCapture_capture]
      exact .inl ⟨rfl, rfl⟩
    · rw [h, State.beforeSettle_capture]
      exact .inr ⟨State.sampleCapture_state hc, rfl⟩
    · rw [h, State.endCapture_sampler, State.endCapture_capture]
      exact .inl ⟨rfl, rfl⟩

/-- A sample leaves no HOLD sample pending where none was (R12). -/
theorem State.takeSample_hold {s : State} (hc : s.capturing = true) (a : Bool) (h : s.sampler.hold = none) :
    (s.takeSample a).sampler.hold = none := by
  obtain ⟨p, hp, ⟨-, ht⟩ | ⟨-, ht⟩⟩ := State.takeSample_sampler_cases hc a
  · rw [ht]
    rfl
  · rw [ht]
    rcases hp with rfl | rfl
    · exact h
    · simp [Sampler.missesWritten, Sampler.afterSample, h]

/-- A sample that ends its capture empties the delay line; else the entries keep their due ticks (R13, R17). -/
theorem State.takeSample_delayLine {s : State} (hc : s.capturing = true) (a : Bool) :
    ((s.takeSample a).capture.state = .done → (s.takeSample a).sampler.delayLine = [])
      ∧ ((s.takeSample a).capture.state ≠ .done →
          (s.takeSample a).sampler.delayLine.map DelayEntry.due = s.sampler.delayLine.map DelayEntry.due) := by
  obtain ⟨p, hp, ⟨hd, ht⟩ | ⟨hd, ht⟩⟩ := State.takeSample_sampler_cases hc a
  · rw [ht]
    exact ⟨fun _ => rfl, fun h => absurd hd h⟩
  · refine ⟨fun h => absurd h hd, fun _ => ?_⟩
    rw [ht]
    rcases hp with rfl | rfl
    · rfl
    · simp [Sampler.missesWritten, Sampler.afterSample, Function.comp_def]

/-- A sample of a capture that goes on leaves the waiting clock transitions (R10, R17). -/
theorem State.takeSample_clockEdges {s : State} (hc : s.capturing = true) (a : Bool)
    (hd : (s.takeSample a).capture.state ≠ .done) : (s.takeSample a).sampler.clockEdges = s.sampler.clockEdges := by
  obtain ⟨p, hp, ⟨hd', -⟩ | ⟨-, ht⟩⟩ := State.takeSample_sampler_cases hc a
  · exact absurd hd' hd
  · rw [ht]
    rcases hp with rfl | rfl <;> rfl

/-- A sample marks no missed edge by itself (R14, log 20). -/
theorem State.takeSample_missSinceTaken {s : State} (hc : s.capturing = true) (a : Bool)
    (h : s.sampler.missSinceTaken = false) : (s.takeSample a).sampler.missSinceTaken = false := by
  obtain ⟨p, hp, hend⟩ := State.takeSample_sampler_cases hc a
  have hm : p.missSinceTaken = false := by
    rcases hp with rfl | rfl
    · exact h
    · rfl
  rcases hend with ⟨-, ht⟩ | ⟨-, ht⟩
  · rw [ht]
    exact hm
  · rw [ht]
    exact hm

/-! ## Grid samples -/

/-- A grid sample is due at a whole multiple of D in a timing capture, once (R8). -/
theorem State.gridDue_iff (s : State) :
    s.gridDue = true ↔ s.resetHeld = false ∧ s.capturing = true ∧ s.sampler.record.mode = .timing
      ∧ s.time.tick % s.sampler.record.divisor = 0 ∧ s.sampler.lastSampleTick ≠ some s.time.tick := by
  simp only [State.gridDue, Bool.and_eq_true, Bool.not_eq_true', beq_iff_eq, decide_eq_true_eq, bne_iff_ne, and_assoc]
  exact Iff.rfl

/-- Settles O39: the grid sample is due, so it is taken. -/
theorem gridSampleIsTaken : Obligations.GridSampleIsTaken := by
  intro s hr hc hm hd hl
  have hdue : s.gridDue = true := s.gridDue_iff.2 ⟨hr, hc, hm, hd, hl⟩
  refine ⟨s.takeSample false, ?_, State.takeSample_handles false hc⟩
  show execSample s = _
  rw [execSample, if_pos hdue]

/-! ## HOLD samples and the delay line -/

/-- Nothing is held back in a capture of a node out of reset. -/
theorem State.not_stopped {s : State} (hr : s.resetHeld = false) (hc : s.capturing = true) :
    ¬(s.resetHeld || !s.capturing) = true := by
  simp [hr, hc]

theorem State.holdDue_eq {s : State} {h : HoldSample} (hr : s.resetHeld = false) (hc : s.capturing = true)
    (hh : s.sampler.hold = some h) (hd : h.due ≤ s.time.tick) : s.holdDue = some h := by
  unfold State.holdDue
  rw [if_neg (State.not_stopped hr hc), hh]
  exact if_pos hd

theorem State.delayDue_eq {s : State} {e : DelayEntry} {rest : List DelayEntry} (hr : s.resetHeld = false)
    (hc : s.capturing = true) (he : s.sampler.delayLine = e :: rest) (hd : e.due ≤ s.time.tick) :
    s.delayDue = some e := by
  unfold State.delayDue
  rw [if_neg (State.not_stopped hr hc), he]
  exact if_pos hd

/-- The clock holds the active level when it stands at it at the tick's instant (R1, R12). -/
theorem State.holdKept_iff (s : State) (h : HoldSample) :
    s.holdKept h = true ↔ hasChannel s.tickLevels s.sampler.settings.clockChannel = h.activeLevel := by
  rw [State.holdKept, beq_iff_eq, State.levelsNow_eq]

/-- Settles O41, by what is due and, for a HOLD sample, by the level of the clock. -/
theorem dueStateSamplesComplete : Obligations.DueStateSamplesComplete := by
  intro s hr hc
  refine ⟨fun h hh hd => ⟨fun hlevel => ?_, fun hlevel => ?_⟩, fun e rest he hd => ?_⟩
  · refine ⟨State.takeSample (s.withSampler { s.sampler with hold := none }) h.afterMiss, ?_, ?_, ?_⟩
    · show execHoldSampleDue s = _
      rw [execHoldSampleDue, State.holdDue_eq hr hc hh hd]
      exact congrArg Host.Outcome.next (if_pos ((s.holdKept_iff h).2 hlevel))
    · exact State.takeSample_handled (u := s.withSampler { s.sampler with hold := none }) _ hc rfl rfl rfl rfl rfl rfl rfl
        rfl rfl
    · exact State.takeSample_hold (s := s.withSampler { s.sampler with hold := none }) hc _ rfl
  · show execHoldSampleDue s = _
    rw [execHoldSampleDue, State.holdDue_eq hr hc hh hd]
    have hcancel : s.completeHold h = s.withSampler s.sampler.cancelHold :=
      if_neg (fun k => hlevel ((s.holdKept_iff h).1 k))
    dsimp only
    rw [hcancel, Sampler.cancelHold, hh]
    rfl
  · have hline := State.takeSample_delayLine (s := s.withSampler { s.sampler with delayLine := s.sampler.delayLine.drop 1 })
      hc e.afterMiss
    refine ⟨s.completeDelay e, ?_, ?_, hline.1, fun hg => ?_⟩
    · show execDelayLineDue s = _
      rw [execDelayLineDue, State.delayDue_eq hr hc he hd]
    · exact State.takeSample_handled (u := s.withSampler { s.sampler with delayLine := s.sampler.delayLine.drop 1 }) _ hc
        rfl rfl rfl rfl rfl rfl rfl rfl rfl
    · refine (hline.2 hg).trans ?_
      rw [State.withSampler_sampler, he]
      rfl

/-! ## Clock edges -/

theorem State.edgeDue_eq {s : State} {e : ClockEdge} {rest : List ClockEdge} (hr : s.resetHeld = false)
    (hc : s.capturing = true) (he : s.sampler.clockEdges = e :: rest) (hd : e.tick ≤ s.time.tick) :
    s.edgeDue = some e := by
  unfold State.edgeDue
  rw [if_neg (State.not_stopped hr hc), he]
  exact if_pos hd

/-- The Sampler with its oldest clock transition examined as an active edge: with a qualifier, the levels of the tick are read
(R10, log 4). -/
def State.examinedSampler (s : State) (rest : List ClockEdge) : Sampler :=
  { s.sampler with
    clockEdges := rest
    levelsRead :=
      if s.sampler.settings.qualifier.isSome then some ⟨s.time.tick, s.tickLevels⟩ else s.sampler.levelsRead }

/-- The Sampler with that edge taken (R11, R14). -/
def State.takenSampler (s : State) (e : ClockEdge) (rest : List ClockEdge) : Sampler :=
  { s.examinedSampler rest with lastTaken := some e.tick, missSinceTaken := false }

/-- The command examines the oldest transition whose tick has come (R10). -/
theorem State.activeEdge_eq {s : State} {e : ClockEdge} {rest : List ClockEdge} (hr : s.resetHeld = false)
    (hc : s.capturing = true) (he : s.sampler.clockEdges = e :: rest) (hd : e.tick ≤ s.time.tick) :
    exec .activeEdge s = .next
      (if s.sampler.settings.clockEdge.takes e.level then (s.withSampler (s.examinedSampler rest)).judgeEdge e
       else s.withSampler { s.sampler with clockEdges := rest }) := by
  have hdrop : s.sampler.clockEdges.drop 1 = rest := by rw [he]; rfl
  show execActiveEdge s = _
  rw [execActiveEdge, State.activeEdge, State.edgeDue_eq hr hc he hd]
  simp only [State.examineEdge, State.readQualifier, State.examinedSampler, hdrop, State.withSampler_sampler]
  split
  · split
    · simp only [State.levelsNow_eq]
      rfl
    · rfl
  · rfl

/-- At the last tick a reading takes the levels as they stand (log 4). -/
theorem State.tickLevels_last {s : State} (h : ¬s.time.tick < 2 ^ 48 - 1) : s.tickLevels = s.pfe.levels := by
  unfold State.tickLevels
  split
  · exact if_neg (fun k => h k.2)
  · rfl

/-- The levels at the tick's instant are those of its first reading, however often they are read (R1, log 4). -/
theorem State.takenSampler_tickLevels (s : State) (e : ClockEdge) (rest : List ClockEdge) :
    (s.withSampler (s.takenSampler e rest)).tickLevels = s.tickLevels := by
  cases hq : s.sampler.settings.qualifier.isSome with
  | false =>
    have hread : (s.takenSampler e rest).levelsRead = s.sampler.levelsRead := by
      rw [State.takenSampler, State.examinedSampler, hq]
      rfl
    unfold State.tickLevels
    rw [State.withSampler_sampler, hread]
    rfl
  | true =>
    have hread : (s.takenSampler e rest).levelsRead = some ⟨s.time.tick, s.tickLevels⟩ := by
      rw [State.takenSampler, State.examinedSampler, hq]
      rfl
    rw [State.tickLevels, State.withSampler_sampler, hread]
    by_cases hmax : s.time.tick < 2 ^ 48 - 1
    · exact if_pos ⟨rfl, hmax⟩
    · exact (if_neg (fun k => hmax k.2)).trans (State.tickLevels_last hmax).symm

/-- A sample taken at the edge's own tick is a sample of the state that the edge came in (R7, R11). -/
theorem State.takenSampler_handled {s : State} (hc : s.capturing = true) (e : ClockEdge) (rest : List ClockEdge) (a : Bool) :
    SampleHandled s a ((s.withSampler (s.takenSampler e rest)).takeSample a) := by
  have hlevels : (s.withSampler (s.takenSampler e rest)).levelsNow = s.levelsNow := by
    rw [State.levelsNow_eq, State.levelsNow_eq, State.takenSampler_tickLevels]
  exact State.takeSample_handled (u := s.withSampler (s.takenSampler e rest)) a hc rfl rfl rfl rfl rfl rfl hlevels rfl rfl

/-- Settles O40, by the edge's direction, its qualifier, its spacing and the clock type. -/
theorem clockEdgeIsExamined : Obligations.ClockEdgeIsExamined := by
  intro s e rest hr hc he hd c active qualified spaced td examined
  have hexec := State.activeEdge_eq hr hc he hd
  have hexamine : active = true → exec .activeEdge s = .next ((s.withSampler examined).judgeEdge e) := fun ha =>
    hexec.trans (congrArg Host.Outcome.next (if_pos ha))
  have hignore : active = true → qualified = false → exec .activeEdge s = .next (s.withSampler examined) := fun ha hq => by
    rw [hexamine ha]
    exact congrArg Host.Outcome.next (if_pos (by rw [Bool.not_eq_true']; exact hq))
  have hjudge : active = true → qualified = true → exec .activeEdge s = .next
      (if spaced then (s.withSampler examined).takeEdge e else (s.withSampler examined).missEdge) := fun ha hq => by
    rw [hexamine ha]
    exact congrArg Host.Outcome.next (if_neg (by rw [Bool.not_eq_true', Bool.not_eq_false]; exact hq))
  have htake : active = true → qualified = true → spaced = true →
      exec .activeEdge s = .next ((s.withSampler examined).takeEdge e) := fun ha hq hs => by
    rw [hjudge ha hq, if_pos hs]
  refine ⟨fun ha => ?_, hignore, fun ha hq hs => ?_, fun ha hq hs ht => ?_, fun ha hq hs ht hz => ?_,
    fun ha hq hs ht => ?_⟩
  · rw [hexec]
    exact congrArg Host.Outcome.next (if_neg (by rw [Bool.not_eq_true]; exact ha))
  · rw [hjudge ha hq, if_neg (by rw [Bool.not_eq_true]; exact hs)]
    rfl
  · rw [htake ha hq hs, State.takeEdge]
    dsimp only [State.withSampler_sampler]
    rw [show examined.settings.clockType = .hold from ht]
    rfl
  · rw [htake ha hq hs, State.takeEdge]
    dsimp only [State.withSampler_sampler]
    rw [show examined.settings.clockType = .delayed from ht]
    exact congrArg Host.Outcome.next (if_neg hz)
  · have hsample : exec .activeEdge s
        = .next ((s.withSampler (s.takenSampler e rest)).takeSample s.sampler.missSinceTaken) := by
      rw [htake ha hq hs, State.takeEdge]
      dsimp only [State.withSampler_sampler]
      rcases ht with ht | ⟨ht, hz⟩
      · rw [show examined.settings.clockType = .edge from ht]
        rfl
      · rw [show examined.settings.clockType = .delayed from ht]
        exact congrArg Host.Outcome.next (if_pos hz)
    have hcu : (s.withSampler (s.takenSampler e rest)).capturing = true := hc
    obtain ⟨-, -, -, -, -, htaken, -⟩ :=
      State.takeSample_sampler (s.withSampler (s.takenSampler e rest)) s.sampler.missSinceTaken
    exact ⟨_, hsample, State.takenSampler_handled hc e rest _, htaken, State.takeSample_missSinceTaken hcu _ rfl,
      fun hg => State.takeSample_clockEdges hcu _ hg⟩

end Sys2Proof.Machine

/-! SUPPORT. What a moved probe input does: nothing, a transition that is recorded, or a wake edge. -/

namespace Sys2Proof.Machine

/-! ## A moved input -/

/-- The new input is read back (R1). -/
theorem Pfe.withInput_detected (p : Pfe) (ch : Channel) (mv : Int) :
    (p.withInput ch mv).detected ch = decide (p.thresholds.get (groupOf ch) * 25 < mv) := by
  simp only [Pfe.detected, Pfe.withInput, Vector.getElem_set_self]

/-- The normalised level of an enabled channel after its input moved (R1, R2). -/
theorem Pfe.withInput_level {p : Pfe} {ch : Channel} (mv : Int) (he : p.enabled.getLsbD ch.val = true) :
    (p.withInput ch mv).level ch
      = (decide (p.thresholds.get (groupOf ch) * 25 < mv) != p.inverted.getLsbD ch.val) := by
  rw [Pfe.level_eq, Pfe.withInput_detected, show (p.withInput ch mv).enabled.getLsbD ch.val = true from he, Bool.and_true]
  rfl

/-- The input moves the detected level of an enabled channel (R1, R2). -/
def Pfe.moves (p : Pfe) (ch : Channel) (mv : Int) : Bool :=
  p.detected ch != decide (p.thresholds.get (groupOf ch) * 25 < mv) && p.enabled.getLsbD ch.val

/-- The front end after a transition: the input moved, the channel in the activity set (R1, R4). -/
def Pfe.afterTransition (p : Pfe) (ch : Channel) (mv : Int) : Pfe := (p.withInput ch mv).noteActivity ch

/-- An input that moves no level changes itself alone (log 5). -/
theorem State.moveInput_still {s : State} {ch : Channel} {mv : Int} (h : s.pfe.moves ch mv = false) :
    s.moveInput ch mv = s.withPfe (s.pfe.withInput ch mv) := by
  have hstill : (s.resetHeld || (s.pfe.withInput ch mv).detected ch == s.pfe.detected ch
      || !hasChannel s.pfe.enabled ch) = true := by
    rw [Pfe.withInput_detected, Bool.or_assoc, Bool.or_eq_true]
    right
    simp only [Pfe.moves, Bool.and_eq_false_iff, bne_eq_false_iff_eq] at h
    rcases h with h | h
    · rw [h, beq_self_eq_true, Bool.true_or]
    · rw [show hasChannel s.pfe.enabled ch = false from h, Bool.not_false, Bool.or_true]
  exact if_pos hstill

/-- A transition of an enabled channel is noted and sampled, and may be a wake edge (R4, R9, R10, R18). -/
theorem State.moveInput_moves {s : State} {ch : Channel} {mv : Int} (hr : s.resetHeld = false)
    (h : s.pfe.moves ch mv = true) :
    let level := decide (s.pfe.thresholds.get (groupOf ch) * 25 < mv) != s.pfe.inverted.getLsbD ch.val
    let sampled := (s.withPfe (s.pfe.afterTransition ch mv)).sampledTransition ch level
    s.moveInput ch mv = if sampled.isWakeEdge ch level then sampled.wake ch level else sampled := by
  simp only [Pfe.moves, Bool.and_eq_true, bne_iff_ne, ne_eq] at h
  obtain ⟨hmove, henabled⟩ := h
  have hmoves : ¬(s.resetHeld || (s.pfe.withInput ch mv).detected ch == s.pfe.detected ch
      || !hasChannel s.pfe.enabled ch) = true := by
    rw [hr, Bool.false_or, Pfe.withInput_detected, show hasChannel s.pfe.enabled ch = true from henabled, Bool.not_true,
      Bool.or_false, beq_iff_eq]
    exact fun e => hmove e.symm
  rw [← Pfe.withInput_level mv henabled]
  exact if_neg hmoves

/-- Outside STANDBY no transition is a wake edge (R18). -/
theorem State.isWakeEdge_awake {s : State} (h : s.capture.state ≠ .standby) (ch : Channel) (rising : Bool) :
    s.isWakeEdge ch rising = false := by
  rw [State.isWakeEdge, beq_eq_false_iff_ne.2 h, Bool.false_and]

/-- In STANDBY a transition is a wake edge when a member of the wake set takes it (R18). -/
theorem State.isWakeEdge_iff {s : State} (h : s.capture.state = .standby) (ch : Channel) (rising : Bool) :
    s.isWakeEdge ch rising = true ↔ ∃ m ∈ s.pfe.wakeSet, m.ch = ch ∧ m.edge.takes rising = true := by
  simp [State.isWakeEdge, h, List.any_eq_true]

/-- Outside a capture a transition is not sampled (R9). -/
theorem State.sampledTransition_idle {s : State} (h : s.capturing = false) (ch : Channel) (level : Bool) :
    s.sampledTransition ch level = s := by
  rw [State.sampledTransition, h]
  rfl

/-! ## Transitions in a capture -/

/-- A transition bears the present tick, or the next one once this tick's levels have been read; the last tick has no next
(R1, log 4). -/
theorem State.transitionStamp_eq (s : State) :
    s.transitionStamp =
      if s.sampler.levelsRead.map LevelsRead.tick = some s.time.tick ∧ s.time.tick < 2 ^ 48 - 1 then s.time.tick + 1
      else s.time.tick := by
  have hread : s.readingNow.isSome = true ↔ s.sampler.levelsRead.map LevelsRead.tick = some s.time.tick := by
    cases hl : s.sampler.levelsRead <;> simp [State.readingNow, State.tick, hl]
  unfold State.transitionStamp nextTick
  by_cases hr : s.sampler.levelsRead.map LevelsRead.tick = some s.time.tick
  · rw [if_pos (hread.2 hr)]
    exact if_congr (by simp [hr, State.tick, Config.tickMax]) rfl rfl
  · rw [if_neg (fun e => hr (hread.1 e)), if_neg (fun e => hr e.1)]
    rfl

/-- In a capture the Sampler counts the transition, and notes it in state mode (R9, R10). -/
theorem State.moveInput_capturing {s : State} {ch : Channel} {mv : Int} (hr : s.resetHeld = false)
    (h : s.pfe.moves ch mv = true) (hc : s.capturing = true) :
    let level := decide (s.pfe.thresholds.get (groupOf ch) * 25 < mv) != s.pfe.inverted.getLsbD ch.val
    s.moveInput ch mv = (s.withPfe (s.pfe.afterTransition ch mv)).withSampler
      ((s.sampler.countTransition ch).noteStateTransition ch s.transitionStamp level
        (s.sampler.settings.qualifier.all (s.pfe.afterTransition ch mv).level)) := by
  intro level
  have hsampled : (s.withPfe (s.pfe.afterTransition ch mv)).sampledTransition ch level = _ := if_pos hc
  have hwake (p : Sampler) : ¬((s.withPfe (s.pfe.afterTransition ch mv)).withSampler p).isWakeEdge ch level = true := by
    rw [State.isWakeEdge_awake (s := (s.withPfe (s.pfe.afterTransition ch mv)).withSampler p) (State.capturing_standby hc)]
    exact nofun
  rw [State.moveInput_moves hr h, hsampled]
  exact if_neg (hwake _)

/-- In timing mode a transition is counted only (R9). -/
theorem Sampler.noteStateTransition_timing {p : Sampler} (hm : p.record.mode = .timing) (ch : Channel) (stamp : Nat)
    (level qualifier : Bool) : p.noteStateTransition ch stamp level qualifier = p := if_pos hm

/-- In state mode a transition of the clock channel waits to be examined (R10). -/
theorem Sampler.noteStateTransition_clock {p : Sampler} (hm : p.record.mode = .state) {ch : Channel}
    (hc : p.settings.clockChannel = ch) (stamp : Nat) (level qualifier : Bool) :
    p.noteStateTransition ch stamp level qualifier = p.noteClockEdge stamp level qualifier := by
  rw [Sampler.noteStateTransition, hm, if_neg (by decide), if_pos hc.symm]

/-- In state mode a transition of the qualifier channel, when that is not the clock channel, reaches the waiting edges (R10). -/
theorem Sampler.noteStateTransition_qualifier {p : Sampler} (hm : p.record.mode = .state) {ch : Channel}
    (hc : p.settings.clockChannel ≠ ch) (hq : p.settings.qualifier = some ch) (stamp : Nat) (level qualifier : Bool) :
    p.noteStateTransition ch stamp level qualifier = p.noteQualifier stamp level := by
  rw [Sampler.noteStateTransition, hm, if_neg (by decide), if_neg (fun e => hc e.symm), if_pos hq]

/-- A transition of any other channel is counted only (R10). -/
theorem Sampler.noteStateTransition_other {p : Sampler} {ch : Channel} (hc : p.settings.clockChannel ≠ ch)
    (hq : p.settings.qualifier ≠ some ch) (stamp : Nat) (level qualifier : Bool) :
    p.noteStateTransition ch stamp level qualifier = p := by
  rw [Sampler.noteStateTransition, if_neg (Ne.symm hc), if_neg hq]
  exact ite_self p

/-- A pending HOLD sample is cancelled by a clock transition within its ticks (R12). -/
theorem Sampler.clockMoved_within {p : Sampler} {h : HoldSample} (hh : p.hold = some h) {stamp : Nat}
    (hs : h.edgeTick < stamp ∧ stamp ≤ h.due) :
    p.clockMoved stamp = { p with hold := none, missSinceTaken := p.missSinceTaken || h.afterMiss } := by
  rw [Sampler.clockMoved, hh]
  dsimp only
  rw [if_pos hs, Sampler.cancelHold, hh]

/-- Outside its ticks a clock transition leaves a pending HOLD sample (R12). -/
theorem Sampler.clockMoved_outside {p : Sampler} {h : HoldSample} (hh : p.hold = some h) {stamp : Nat}
    (hs : ¬(h.edgeTick < stamp ∧ stamp ≤ h.due)) : p.clockMoved stamp = p := by
  rw [Sampler.clockMoved, hh]
  exact if_neg hs

theorem Sampler.clockMoved_none {p : Sampler} (hh : p.hold = none) (stamp : Nat) : p.clockMoved stamp = p := by
  rw [Sampler.clockMoved, hh]

/-- Settles O37, by whether a level moves, the capture state, and in a state capture the channel. -/
theorem transitionIsRecorded : Obligations.TransitionIsRecorded := by
  intro ch mv s hr threshold moves input moved level stamp counted edge
  have hawake : moves = true → s.capturing = false →
      (s.withPfe moved).isWakeEdge ch level = false → exec (.transition ch mv) s = .next (s.withPfe moved) := by
    intro hm hc hw
    show Host.Outcome.next (s.moveInput ch mv) = _
    rw [State.moveInput_moves hr hm, State.sampledTransition_idle (s := s.withPfe (s.pfe.afterTransition ch mv)) hc]
    exact congrArg Host.Outcome.next (if_neg (by rw [Bool.not_eq_true]; exact hw))
  have hcapture : moves = true → s.capturing = true → exec (.transition ch mv) s = .next ((s.withPfe moved).withSampler
      (counted.noteStateTransition ch stamp level edge.qualifier)) := by
    intro hm hc
    have hqual : edge.qualifier = s.sampler.settings.qualifier.all (s.pfe.afterTransition ch mv).level := by
      show (match s.sampler.settings.qualifier with | none => true | some q => hasChannel moved.levels q) = _
      cases s.sampler.settings.qualifier <;> rfl
    show Host.Outcome.next (s.moveInput ch mv) = _
    rw [State.moveInput_capturing hr hm hc, State.transitionStamp_eq, hqual]
    rfl
  refine ⟨fun hm => ?_, fun hm hc hs => ?_, fun hm hs hnone => ?_, fun hm hc ht => ?_, fun hm hc ht => ⟨fun hch hh => ?_,
    fun h hch hh => ⟨fun hin => ?_, fun hout => ?_⟩, fun hch hq => ?_, fun hch hq => ?_⟩⟩
  · exact congrArg Host.Outcome.next (State.moveInput_still hm)
  · exact hawake hm hc (State.isWakeEdge_awake (s := s.withPfe moved) hs ch level)
  · refine hawake hm (by rw [State.capturing, hs]; rfl) ?_
    rw [← Bool.not_eq_true, State.isWakeEdge_iff (s := s.withPfe moved) hs]
    rintro ⟨m, hmem, hmch, htakes⟩
    rw [hnone m hmem hmch] at htakes
    cases htakes
  · rw [hcapture hm hc, Sampler.noteStateTransition_timing (p := counted) ht]
    rfl
  · rw [hcapture hm hc, Sampler.noteStateTransition_clock (p := counted) ht hch, Sampler.noteClockEdge,
      Sampler.clockMoved_none (p := counted) hh]
    rfl
  · rw [hcapture hm hc, Sampler.noteStateTransition_clock (p := counted) ht hch, Sampler.noteClockEdge,
      Sampler.clockMoved_within (p := counted) hh hin]
    rfl
  · rw [hcapture hm hc, Sampler.noteStateTransition_clock (p := counted) ht hch, Sampler.noteClockEdge,
      Sampler.clockMoved_outside (p := counted) hh hout]
    rfl
  · rw [hcapture hm hc, Sampler.noteStateTransition_qualifier (p := counted) ht hch hq]
    rfl
  · rw [hcapture hm hc, Sampler.noteStateTransition_other (p := counted) hch hq]
    rfl

end Sys2Proof.Machine

/-! SUPPORT. The arm checks in order, and what a taken ARM leaves, whatever brought it: an order or a wake edge. -/

namespace Sys2Proof.Machine

/-! ## The first check that fails -/

/-- In a list of numbered verdicts in order of their numbers, the first positive one has the least number. -/
theorem find_first_iff {l : List (Nat × Bool)} (hl : l.Pairwise (fun a b => a.1 < b.1)) (i : Nat) :
    (l.find? (fun c => c.2)).map Prod.fst = some i ↔ (i, true) ∈ l ∧ ∀ j < i, (j, true) ∉ l := by
  induction l with
  | nil => simp
  | cons c l ih =>
    obtain ⟨n, b⟩ := c
    obtain ⟨hn, hrest⟩ := List.pairwise_cons.1 hl
    cases b with
    | true =>
      simp only [List.find?_cons_of_pos, Option.map_some, Option.some.injEq]
      constructor
      · rintro rfl
        refine ⟨List.mem_cons_self, fun j hj hmem => ?_⟩
        rcases List.mem_cons.1 hmem with e | hmem
        · cases e
          omega
        · have := hn _ hmem
          omega
      · rintro ⟨hmem, hleast⟩
        rcases List.mem_cons.1 hmem with e | hmem
        · cases e
          rfl
        · exact absurd List.mem_cons_self (hleast n (hn _ hmem))
    | false =>
      rw [List.find?_cons_of_neg (by simp), ih hrest]
      simp

/-- A property of some member of a set of four is a property of a member by its number. -/
theorem Quad.any_toList {α : Type} (q : Quad α) (f : α → Bool) : q.toList.any f = true ↔ ∃ k, f (q.get k) = true := by
  rw [Fin.exists_fin_succ, Fin.exists_fin_succ, Fin.exists_fin_two]
  simp only [Quad.toList, List.any_cons, List.any_nil, Bool.or_false, Bool.or_eq_true]
  exact Iff.rfl

/-- The conditions of the program are those that stand in a stage, as A or B of a branch (R42). -/
theorem Sequencer.mem_conditions (q : Sequencer) (c : Condition) : c ∈ q.conditions ↔ q.holdsCondition c := by
  have branch (b : Branch) : c ∈ b.conditions ↔ b.condA = c ∨ b.condB = some c := by
    rw [Branch.conditions, List.mem_cons, Option.mem_toList, eq_comm]
  simp only [Sequencer.conditions, Sequencer.holdsCondition, List.mem_flatMap, Stage.conditions, List.mem_append, branch,
    Option.mem_toList]
  refine exists_congr (fun st => and_congr_right (fun _ => ⟨?_, ?_⟩))
  · rintro (h | ⟨b, hb, h⟩)
    · exact ⟨st.primary, .inl rfl, h⟩
    · exact ⟨b, .inr hb, h⟩
  · rintro ⟨b, rfl | hb, h⟩
    · exact .inl h
    · exact .inr ⟨b, hb, h⟩

/-- The channels that a slot's settings name (R42). -/
theorem DecoderKind.mem_channels (k : DecoderKind) (ch : Channel) : ch ∈ k.channels ↔ k.names ch := by
  cases k with
  | off => simp [DecoderKind.channels, DecoderKind.names]
  | async c => simp [DecoderKind.channels, DecoderKind.names]
  | clocked c => simp [DecoderKind.channels, DecoderKind.names]
  | strobed c => simp [DecoderKind.channels, DecoderKind.names, mem_allChannels]

/-- Check 1: a state capture with an ASYNC slot (R42). -/
theorem State.armCheck_async (s : State) :
    (s.sampler.settings.mode == .state && s.decoders.slots.toList.any (fun d => d.kind.isAsync)) = true
      ↔ s.failsArmCheck 1 := by
  have async (k : DecoderKind) : k.isAsync = true ↔ ∃ c, k = .async c := by
    cases k <;> simp [DecoderKind.isAsync]
  simp only [Bool.and_eq_true, beq_iff_eq, Quad.any_toList, async]
  exact Iff.rfl

/-- Check 2: a condition on a slot of kind OFF (R42). -/
theorem State.armCheck_offSlot (s : State) :
    s.seq.conditions.any (Condition.namesOffSlot s.decoders) = true ↔ s.failsArmCheck 2 := by
  rw [List.any_eq_true]
  constructor
  · rintro ⟨c, hc, hoff⟩
    cases c with
    | decode slot kind v m e => exact ⟨slot, kind, v, m, e, (s.seq.mem_conditions _).1 hc, beq_iff_eq.1 hoff⟩
    | always | pattern _ _ _ | edge _ _ | counter _ _ | flag _ _ => cases hoff
  · rintro ⟨slot, kind, v, m, e, hc, hoff⟩
    exact ⟨_, (s.seq.mem_conditions _).2 hc, beq_iff_eq.2 hoff⟩

/-- Check 3: a condition on a counter in mode OFF (R42). -/
theorem State.armCheck_offCounter (s : State) :
    s.seq.conditions.any (Condition.namesOffCounter s.counters) = true ↔ s.failsArmCheck 3 := by
  rw [List.any_eq_true]
  constructor
  · rintro ⟨c, hc, hoff⟩
    cases c with
    | counter k range => exact ⟨k, range, (s.seq.mem_conditions _).1 hc, beq_iff_eq.1 hoff⟩
    | always | pattern _ _ _ | edge _ _ | decode _ _ _ _ _ | flag _ _ => cases hoff
  · rintro ⟨k, range, hc, hoff⟩
    exact ⟨_, (s.seq.mem_conditions _).2 hc, beq_iff_eq.2 hoff⟩

/-- Check 4: a counter whose edges come from a disabled channel, or a PERIOD counter that counts edges (R42). -/
theorem State.armCheck_source (s : State) :
    s.counters.k.toList.any (fun c => c.settings.failsSource s.pfe.enabled) = true ↔ s.failsArmCheck 4 := by
  rw [Quad.any_toList]
  simp only [CounterSettings.failsSource, Bool.and_eq_true, Bool.or_eq_true, bne_iff_ne, beq_iff_eq, Bool.not_eq_true']
  exact Iff.rfl

/-- Check 5: a slot that names a disabled channel (R42). -/
theorem State.armCheck_disabled (s : State) :
    s.decoders.slots.toList.any (fun d => d.kind.channels.any (fun ch => !hasChannel s.pfe.enabled ch)) = true
      ↔ s.failsArmCheck 5 := by
  rw [Quad.any_toList]
  simp only [List.any_eq_true, DecoderKind.mem_channels, Bool.not_eq_true']
  exact Iff.rfl

/-- Check 6: a pair whose cascade does not fit its modes (R42). -/
theorem State.armCheck_pairs (s : State) :
    (pairFails s.counters.cascade01 s.counters.k.q0.settings.mode s.counters.k.q1.settings.mode
      || pairFails s.counters.cascade23 s.counters.k.q2.settings.mode s.counters.k.q3.settings.mode) = true
      ↔ s.failsArmCheck 6 := by
  have pair (cascade : Bool) (low high : CounterMode) :
      pairFails cascade low high = true ↔ pairConflicts cascade low high := by
    simp [pairFails, pairConflicts]
  rw [Bool.or_eq_true, pair, pair]
  exact Iff.rfl

/-- The listed checks are those of R42, each with its verdict. -/
theorem State.mem_armChecks (s : State) (i : Nat) : (i, true) ∈ s.armChecks ↔ s.failsArmCheck i := by
  simp only [State.armChecks, List.mem_cons, Prod.mk.injEq, List.not_mem_nil, or_false]
  match i with
  | 0 => simp only [Nat.reduceEqDiff, false_and, or_false, State.failsArmCheck]
  | 1 => simpa only [Nat.reduceEqDiff, false_and, or_false, true_and] using eq_comm.trans s.armCheck_async
  | 2 => simpa only [Nat.reduceEqDiff, false_and, or_false, false_or, true_and] using eq_comm.trans s.armCheck_offSlot
  | 3 => simpa only [Nat.reduceEqDiff, false_and, or_false, false_or, true_and] using eq_comm.trans s.armCheck_offCounter
  | 4 => simpa only [Nat.reduceEqDiff, false_and, or_false, false_or, true_and] using eq_comm.trans s.armCheck_source
  | 5 => simpa only [Nat.reduceEqDiff, false_and, or_false, false_or, true_and] using eq_comm.trans s.armCheck_disabled
  | 6 => simpa only [Nat.reduceEqDiff, false_and, false_or, true_and] using eq_comm.trans s.armCheck_pairs
  | n + 7 => simp only [Nat.reduceEqDiff, false_and, or_false, State.failsArmCheck]

/-- The conflict of an ARM is the first check that fails (R41, R42). -/
theorem State.armConflict_eq_some (s : State) (i : Nat) :
    s.armConflict = some i ↔ s.failsArmCheck i ∧ ∀ j < i, ¬s.failsArmCheck j := by
  have hsorted : s.armChecks.Pairwise (fun a b => a.1 < b.1) := by simp [State.armChecks]
  simp only [State.armConflict, find_first_iff hsorted, State.mem_armChecks]

/-- There is no conflict when no check fails. -/
theorem State.armConflict_eq_none {s : State} (h : ∀ i, ¬s.failsArmCheck i) : s.armConflict = none :=
  Option.eq_none_iff_forall_ne_some.2 (fun i hi => h i ((s.armConflict_eq_some i).1 hi).1)

/-! ## Losses and ages -/

/-- Removed records count into their slots' losses (R132). -/
theorem countRemoved_after (removed : List QueuedRecord) :
    ∀ losses : Quad Nat, lossesAfter losses removed (countRemoved losses removed) := by
  induction removed with
  | nil =>
    intro losses d hd
    simpa [countRemoved] using hd
  | cons r rest ih =>
    intro losses d hd
    have hstep := ih (addLoss losses r.body.slot (1 + r.lostBefore)) d
    show (countRemoved (addLoss losses r.body.slot (1 + r.lostBefore)) rest).get d = _
    by_cases hslot : r.body.slot = d
    · subst hslot
      simp only [addLoss, Quad.get_set_self, Config.countMax] at hstep
      rw [addLoss, hstep (Nat.min_le_left _ _), List.filter_cons_of_pos (by simp), List.map_cons, List.sum_cons]
      omega
    · simp only [addLoss, Quad.get_set_ne _ _ (Ne.symm hslot)] at hstep
      rw [addLoss, hstep hd, List.filter_cons_of_neg (by simpa using hslot)]

/-- The age limit is reached when the oldest record has the age (R129). -/
theorem Streamer.ageLimitReached_iff (st : Streamer) (now : Nat) : st.ageLimitReached now = true ↔ st.aged now := by
  unfold Streamer.ageLimitReached Streamer.oldestAge Streamer.aged
  cases st.queue with
  | nil => simp
  | cons r rest => simp [Config.ticksPerBatchStep]

/-- What a discard leaves of the Streamer (R132). -/
theorem State.discarded_of_streamer {s t : State} (h : t.streamer = s.streamer.discard s.time.elapsed) : Discarded s t := by
  refine ⟨?_, ?_, ?_⟩
  · rw [h]
    rfl
  · rw [h]
    exact countRemoved_after _ _
  · rw [h]
    exact Streamer.ageLimitReached_iff _ _

/-! ## The end of a reduction -/

/-- Without a current reduction nothing ends (R147). -/
theorem State.endReduction_none {s : State} (h : s.columns.current = none) (why : EndReason) : s.endReduction why = s := by
  rw [State.endReduction, h]

/-- The outgoing list of an ended reduction, by its phase (R147). -/
theorem State.endReduction_outgoing {s : State} {r : Reduction} (h : s.columns.current = some r) (why : EndReason) :
    ∃ free, (s.endReduction why).columns.outgoing = s.columns.endedList r why free := by
  refine ⟨(Config.freeWindow s.freeDraws).toInt, ?_⟩
  rw [State.endReduction, h]
  dsimp only
  cases hp : r.phase with
  | starting => simp [ColumnEngine.endedList, ColumnEngine.disowned, hp]
  | passing => simp [ColumnEngine.endedList, ColumnEngine.disowned, hp, Reduction.endPost]
  | closing =>
    have hrepeats : r.repeats = true ↔ r.params.repeatCode ≠ 0 ∧ r.snapshot.live = true := by
      simp [Reduction.repeats]
    simp only [ColumnEngine.endedList, hp]
    by_cases hr : r.repeats = true
    · rw [if_pos hr, if_pos (hrepeats.1 hr)]
      rfl
    · rw [if_neg hr, if_neg (fun e => hr (hrepeats.2 e)), List.append_nil]
      rfl
  | waiting expiry =>
    simp only [ColumnEngine.endedList, hp]
    rfl

/-! ## Arming -/

/-- A discard of the decode queue is none of the Column Engine's concern (R132). -/
theorem State.discardQueue_columns (s : State) :
    s.discardQueue.columns = s.columns ∧ s.discardQueue.freeDraws = s.freeDraws := by
  rw [State.discardQueue_eq]
  exact ⟨rfl, rfl⟩

/-- Arming ends the reduction of the armed readout unit's state, and its next column is 0 (R43, R150). -/
theorem State.armEffects_columns (s : State) :
    s.armEffects.columns = { (s.armReadout.endReduction .discarded).columns with nextColumn := 0 }
      ∧ s.armEffects.freeDraws = (s.armReadout.endReduction .discarded).freeDraws := by
  obtain ⟨hcolumns, hdraws⟩ := (s.armReadout.endReduction .discarded).discardQueue_columns
  simp [State.armEffects, hcolumns, hdraws]

/-- What a taken ARM leaves (R43). -/
theorem State.armEffects_taken (s : State) : ArmTaken s s.armEffects where
  capture := s.armEffects_capture
  store := s.armEffects_store
  readout := by
    rw [State.armEffects_readout, State.armReadout]
    cases h : s.readout with
    | free => exact h
    | building j => rfl
    | walking j => rfl
    | holding p => exact h
  sampler := s.armEffects_sampler
  counters k := by
    rw [State.armEffects_counters]
    exact Quad.get_map _ _ k
  cascades := by
    rw [State.armEffects_counters]
    exact ⟨rfl, rfl⟩
  seq := s.armEffects_seq
  slots d := by
    rw [State.armEffects_decoders]
    exact Quad.get_map _ _ d
  copySet d := by
    rw [State.armEffects_decoders]
    exact s.decoders.noteCopySet_holds d
  discarded := State.discarded_of_streamer s.armEffects_streamer
  noReduction := by
    obtain ⟨hcolumns, -⟩ := s.armEffects_columns
    exact ⟨s.armEffects_current, by rw [hcolumns]⟩
  outgoing h := by
    obtain ⟨hcolumns, hdraws⟩ := s.armEffects_columns
    have hnone : s.armReadout.columns.current = none := by rw [State.armReadout_columns, h]
    rw [hcolumns, hdraws, State.endReduction_none hnone]
    exact ⟨by rw [s.armReadout_columns], s.armReadout_freeDraws⟩
  ended r h := by
    obtain ⟨hcolumns, -⟩ := s.armEffects_columns
    have hsome : s.armReadout.columns.current = some r := by rw [State.armReadout_columns, h]
    obtain ⟨free, hfree⟩ := State.endReduction_outgoing hsome .discarded
    refine ⟨free, ?_⟩
    rw [hcolumns, ← s.armReadout_columns]
    exact hfree

/-- What a taken ARM leaves says nothing of the Order Unit, in which the order or the wake leaves its own (R43, R55). -/
theorem ArmTaken.withOrders {s t : State} (h : ArmTaken s t) (x : OrderUnit) : ArmTaken s (t.withOrders x) := by
  obtain ⟨h1, h2, h3, h4, h5, h6, h7, h8, h9, ⟨h10, h11, h12⟩, h13, h14, h15⟩ := h
  exact ⟨h1, h2, h3, h4, h5, h6, h7, h8, h9, ⟨h10, h11, h12⟩, h13, h14, h15⟩

end Sys2Proof.Machine

/-! SUPPORT. The wake edge: the return from standby, the wake action, and the ACTIVITY notice. -/

namespace Sys2Proof.Machine

/-! ## Notices that are set -/

/-- A setting marks the set when its kind is in flight (R177). -/
theorem NoticeSet.noteSetting_eq (n : NoticeSet) (k : NoticeKind) :
    n.noteSetting k = { n with setAgain := n.setAgain || n.flying == some k } := by
  unfold NoticeSet.noteSetting
  by_cases h : n.flying = some k
  · rw [if_pos h, h, beq_self_eq_true, Bool.or_true]
  · rw [if_neg h, beq_eq_false_iff_ne.2 h, Bool.or_false]

theorem NoticeSet.setActivity_eq (n : NoticeSet) (d : ActivityDetails) :
    n.setActivity d = { n with activity := some d, setAgain := n.setAgain || n.flying == some .activity } := by
  rw [NoticeSet.setActivity, NoticeSet.noteSetting_eq]

theorem NoticeSet.setDecodeLoss_eq (n : NoticeSet) :
    n.setDecodeLoss = { n with decodeLoss := true, setAgain := n.setAgain || n.flying == some .decodeLoss } := by
  rw [NoticeSet.setDecodeLoss, NoticeSet.noteSetting_eq]

/-- A discard that removes a record sets DECODE_LOSS (R125, R132). -/
theorem Streamer.discardRemoves_notices (st : Streamer) (n : NoticeSet) :
    (if st.discardRemoves then n.setDecodeLoss else n) = n.withLoss (st.queue.drop st.inFlight ≠ []) := by
  rw [NoticeSet.setDecodeLoss_eq, NoticeSet.withLoss]
  exact if_congr bne_iff_ne rfl rfl

/-- Arming changes the notice set alone of the Order Unit (R43, R132). -/
theorem State.armEffects_notices (s : State) :
    s.armEffects.orders = { s.orders with
      notices := s.orders.notices.withLoss (s.streamer.queue.drop s.streamer.inFlight ≠ []) } := by
  rw [State.armEffects_orders, ← Streamer.discardRemoves_notices]
  split <;> rfl

/-! ## The wake edge -/

/-- The state that the return from standby leaves (R54). -/
theorem State.leaveStandby_of_standby {s : State} (h : s.capture.state = .standby) :
    s.leaveStandby =
      { s with capture := { s.capture with state := s.capture.returnState.getD .idle, returnState := none } } := by
  rw [State.leaveStandby, CaptureControl.leaveStandby, if_pos h]
  rfl

/-- The wake action in the return state (R55). -/
theorem State.wakeAction_none {s : State} (h : s.capture.wakeArm = false) : s.wakeAction = (s, .none, 0) := by
  rw [State.wakeAction, h]
  rfl

theorem State.wakeAction_fails {s : State} (h : s.capture.wakeArm = true) {cause : Nat} (hc : s.wakeFailure = some cause) :
    s.wakeAction = (s, .armFailed, cause) := by
  rw [State.wakeAction, if_pos h, hc]

theorem State.wakeAction_arms {s : State} (h : s.capture.wakeArm = true) (hc : s.wakeFailure = none) :
    s.wakeAction = (s.armEffects, .armed, 0) := by
  rw [State.wakeAction, if_pos h, hc]

/-- Without a load in progress a wake ARM fails on the arm checks alone (R55). -/
theorem State.wakeFailure_noLoad {s : State} (h : s.seq.load = none) : s.wakeFailure = s.armConflict := by
  rw [State.wakeFailure, h]
  rfl

/-- A wake edge returns the node and takes the wake action, which ACTIVITY reports (R18, R55). -/
theorem State.moveInput_wakes {s : State} {ch : Channel} {mv : Int} (hr : s.resetHeld = false)
    (hs : s.capture.state = .standby) (hm : s.pfe.moves ch mv = true)
    (hw : ∃ m ∈ s.pfe.wakeSet, m.ch = ch ∧ m.edge.takes
      (decide (s.pfe.thresholds.get (groupOf ch) * 25 < mv) != s.pfe.inverted.getLsbD ch.val) = true) :
    s.moveInput ch mv = (s.withPfe (s.pfe.afterTransition ch mv)).wake ch
      (decide (s.pfe.thresholds.get (groupOf ch) * 25 < mv) != s.pfe.inverted.getLsbD ch.val) := by
  have hidle : (s.withPfe (s.pfe.afterTransition ch mv)).capturing = false := by
    rw [State.capturing, State.withPfe_capture, hs]
    rfl
  rw [State.moveInput_moves hr hm, State.sampledTransition_idle hidle]
  exact if_pos ((State.isWakeEdge_iff (s := s.withPfe (s.pfe.afterTransition ch mv)) hs ch _).2 hw)

/-- Settles O38, by the wake action and, for an ARM, by what makes it fail. -/
theorem wakeEdgeEndsStandby : Obligations.WakeEdgeEndsStandby := by
  intro ch mv s m hr hs _ hmem hch henabled threshold level returned reported stays hmove htakes
  have hmoves : s.pfe.moves ch mv = true := by
    rw [Pfe.moves, Bool.and_eq_true, bne_iff_ne]
    exact ⟨hmove, henabled⟩
  have hleave : (s.withPfe (s.pfe.afterTransition ch mv)).leaveStandby = returned :=
    State.leaveStandby_of_standby (s := s.withPfe (s.pfe.afterTransition ch mv)) hs
  have hwake (r : State × WakeResult × Nat) (hact : returned.wakeAction = r) : exec (.transition ch mv) s =
      .next (r.1.withOrders { r.1.orders with notices := reported r.1.orders.notices r.2.1 r.2.2 }) := by
    show Host.Outcome.next (s.moveInput ch mv) = _
    rw [State.moveInput_wakes hr hs hmoves ⟨m, hmem, hch, htakes⟩, State.wake, hleave, hact]
    simp only [State.withNotices, NoticeSet.setActivity_eq]
    rfl
  refine ⟨fun hnone => ?_, fun harm hload => ?_, fun i harm hload hfail hfirst => ?_, fun harm hload hpass => ?_⟩
  · exact hwake _ (State.wakeAction_none hnone)
  · exact hwake _ (State.wakeAction_fails (s := returned) harm (if_pos hload))
  · have hfailure : returned.wakeFailure = some i :=
      (State.wakeFailure_noLoad hload).trans ((returned.armConflict_eq_some i).2 ⟨hfail, hfirst⟩)
    exact hwake _ (State.wakeAction_fails (s := returned) harm hfailure)
  · have hfailure : returned.wakeFailure = none :=
      (State.wakeFailure_noLoad hload).trans (State.armConflict_eq_none hpass)
    refine ⟨_, hwake _ (State.wakeAction_arms (s := returned) harm hfailure), returned.armEffects_taken.withOrders _, ?_,
      returned.armEffects_link, returned.armEffects_time, returned.armEffects_pfe, returned.armEffects_resetHeld,
      returned.armEffects_pending⟩
    rw [State.withOrders_orders, State.armEffects_notices]

end Sys2Proof.Machine

/-! SUPPORT. The retained records by their numbers, and what the start selections of a read name. -/

namespace Sys2Proof.Machine

/-! ## Retained sequences -/

/-- The store answers whether it keeps a sequence (R20). -/
theorem Store.retains_iff (st : Store) (q : Nat) : st.retains q = true ↔ st.keeps q := decide_eq_true_iff

/-- A kept sequence names a record by its distance from the oldest (R20). -/
theorem Store.recordAt_eq {st : Store} {q : Nat} (h : st.oldest ≤ q) : st.recordAt q = st.records[q - st.oldest]? :=
  if_neg (Nat.not_lt.2 h)

/-- Below the oldest nothing is retained (R20). -/
theorem Store.recordAt_gone {st : Store} {q : Nat} (h : q < st.oldest) : st.recordAt q = none := if_pos h

/-- With a record retained there is an oldest and a newest one (R20). -/
theorem Store.keeps_ends {st : Store} (hn : st.records.length ≤ st.nextSeq) (h : st.records ≠ []) :
    st.keeps st.oldest ∧ st.keeps (st.nextSeq - 1) := by
  have hpos : 0 < st.records.length := List.length_pos_iff.2 h
  simp only [Store.keeps, Store.oldest]
  omega

/-- An empty store keeps no sequence (R20). -/
theorem Store.not_keeps_of_empty {st : Store} (h : st.records = []) (q : Nat) : ¬st.keeps q := by
  simp only [Store.keeps, h, List.length_nil]
  omega

/-! ## Start selections -/

/-- An upward read starts at a retained record or nowhere (R33). -/
theorem Store.upward_eq (st : Store) (q count : Nat) :
    st.upward q count =
      if st.nextSeq - st.records.length ≤ q ∧ q < st.nextSeq then some ⟨q, count, false⟩ else none := by
  simp only [Store.upward, Store.retains, decide_eq_true_eq]
  rfl

theorem Store.upward_kept {st : Store} {q : Nat} (h : st.keeps q) (count : Nat) :
    st.upward q count = some ⟨q, count, false⟩ :=
  if_pos ((st.retains_iff q).2 h)

/-- A downward read takes the retained records below the pointer, or there are none (R33). -/
theorem Store.downwardFrom_eq (st : Store) (r count : Nat) :
    st.downwardFrom r count =
      if st.nextSeq - st.records.length < r ∧ r ≤ st.nextSeq then
        some ⟨max (r - count) (st.nextSeq - st.records.length), r - max (r - count) (st.nextSeq - st.records.length), true⟩
      else none := by
  have hbelow : 0 < r ∧ st.retains (r - 1) = true ↔ st.nextSeq - st.records.length < r ∧ r ≤ st.nextSeq := by
    rw [st.retains_iff, Store.keeps]
    omega
  simp only [Store.downwardFrom, hbelow]
  rfl

/-- Settles O28, by the two kinds of read that a selection names. -/
theorem startSelections : Obligations.StartSelections := by
  intro st count hn _ oldest
  refine ⟨fun q => st.upward_eq q count, ?_, ?_, fun ht => ?_, fun p hp => ?_, fun hl => ?_, fun r hl => ?_⟩
  · refine ite_congr rfl (fun _ => rfl) (fun h => ?_)
    exact Store.upward_kept (Store.keeps_ends hn h).1 count
  · refine ite_congr rfl (fun _ => rfl) (fun h => ?_)
    exact Store.upward_kept (Store.keeps_ends hn h).2 count
  · simp only [Store.resolve, ht, Option.bind_none]
  · simp only [Store.resolve, hp, Option.bind_some]
    exact st.upward_eq p.sequence count
  · simp only [Store.resolve, hl, Option.bind_none, and_self]
  · simp only [Store.resolve, hl, Option.bind_some]
    exact ⟨st.upward_eq r count, st.upward_eq (r + 1) count, st.downwardFrom_eq r count⟩

/-! ## READ_RECORDS -/

/-- The selection code with the sequence that it may carry (R33, R170). -/
theorem selectionOf_eq_some {o : OrderPost} {sel : Selection} : selectionOf o = some sel ↔ selectionReads o sel := by
  match hcode : paramNat o 2 with
  | 0 => cases sel <;> simp [selectionOf, selectionReads, hcode, eq_comm]
  | 1 | 2 | 3 | 4 | 5 | 6 | n + 7 => cases sel <;> simp [selectionOf, selectionReads, hcode]

/-- The record that a READ_RECORDS names (R33); none is RANGE. -/
def State.readNames (s : State) (o : OrderPost) : Option Resolved :=
  (selectionOf o).bind (fun sel => s.store.resolve sel (paramNat o 9))

section Read
variable {o : OrderPost} {s : State} (hfree : s.readout = .free) (hlow : 1 ≤ paramNat o 9) (hhigh : paramNat o 9 ≤ 8)
include hfree hlow hhigh

/-- A selection that names nothing is refused (R33). -/
theorem judgeReadRecords_range (h : s.readNames o = none) : judgeReadRecords o s = s.refuse .range := by
  rw [State.readNames] at h
  rw [judgeReadRecords, if_neg (not_not.2 hfree), if_neg (by omega), h]

/-- A selection that names a record begins a read there (R33, R34). -/
theorem judgeReadRecords_taken {x : Resolved} (h : s.readNames o = some x) :
    judgeReadRecords o s = { state := s.withReadout (.building (x.job o)), status := .ok, startsRead := true } := by
  rw [State.readNames] at h
  rw [judgeReadRecords, if_neg (not_not.2 hfree), if_neg (by omega), h]

end Read

/-- Settles O27, by the job of the unit, the count and what the selection names. -/
theorem readRecordsJudged : Obligations.ReadRecordsJudged := by
  intro o s h hl
  have hfits : (o.params.length == 8) = true := beq_iff_eq.2 hl
  refine ⟨fun hbusy => ?_, fun hfree hcount => ?_, fun hfree hlow hhigh hnone => ?_,
    fun sel x hfree hlow hhigh hsel hx => ?_⟩
  · exact State.takeOrder_refuses h _ hfits (if_pos hbusy)
  · exact State.takeOrder_refuses h _ hfits ((if_neg (not_not.2 hfree)).trans (if_pos hcount))
  · have hnames : s.readNames o = none :=
      Option.bind_eq_none_iff.2 (fun sel hs => hnone sel (selectionOf_eq_some.1 hs))
    exact State.takeOrder_refuses h _ hfits
      (judgeReadRecords_range (s := { s with link := s.heardLink }) hfree hlow hhigh hnames)
  · have hnames : s.readNames o = some x := Option.bind_eq_some_iff.2 ⟨sel, selectionOf_eq_some.2 hsel, hx⟩
    refine congrArg Host.Outcome.next ?_
    rw [State.takeOrder_taken h _ hfits,
      judgeReadRecords_taken (s := { s with link := s.heardLink }) hfree hlow hhigh hnames, Judged.settle_eq]
    rfl

end Sys2Proof.Machine

/-! SUPPORT. Search walks: the record at which a walk starts, and the one at which it ends. -/

namespace Sys2Proof.Machine

/-! ## The first in a direction -/

/-- `q` is the first number in the direction of which `p` holds. -/
def Direction.isFirst (d : Direction) (p : Nat → Prop) (q : Nat) : Prop := p q ∧ ∀ n, p n → ¬d.beyond n q

theorem Direction.isFirst_unique {d : Direction} {p : Nat → Prop} {q q' : Nat} (h : d.isFirst p q)
    (h' : d.isFirst p q') : q = q' := by
  have hq := h.2 q' h'.1
  have hq' := h'.2 q h.1
  cases d <;> simp only [Direction.beyond] at hq hq' <;> omega

/-- A search that answers with a first number, and with none only where there is none, finds the first one. -/
theorem Direction.eq_some_iff_isFirst {d : Direction} {p : Nat → Prop} {found : Option Nat}
    (hsome : ∀ q, found = some q → d.isFirst p q) (hnone : found = none → ∀ n, ¬p n) (q : Nat) :
    found = some q ↔ d.isFirst p q := by
  refine ⟨hsome q, fun h => ?_⟩
  cases hf : found with
  | none => exact absurd h.1 (hnone hf q)
  | some q' => rw [Direction.isFirst_unique (hsome q' hf) h]

/-- The first number of an interval in a direction: its lowest going forward, its highest going backward. -/
def Direction.firstOf (d : Direction) (lo hi : Nat) : Option Nat :=
  if lo < hi then some (match d with | .forward => lo | .backward => hi - 1) else none

theorem Direction.firstOf_eq_some {d : Direction} {p : Nat → Prop} {lo hi : Nat} (hp : ∀ n, p n ↔ lo ≤ n ∧ n < hi)
    (q : Nat) : d.firstOf lo hi = some q ↔ d.isFirst p q := by
  simp only [Direction.firstOf, Direction.isFirst, hp, Option.ite_none_right_eq_some, Option.some.injEq]
  cases d <;> simp only [Direction.beyond]
  case forward =>
    refine ⟨fun ⟨hlt, hq⟩ => ⟨by omega, fun n hn => by omega⟩, fun ⟨hq, hfirst⟩ => ⟨by omega, ?_⟩⟩
    have := hfirst lo (by omega)
    omega
  case backward =>
    refine ⟨fun ⟨hlt, hq⟩ => ⟨by omega, fun n hn => by omega⟩, fun ⟨hq, hfirst⟩ => ⟨by omega, ?_⟩⟩
    have := hfirst (hi - 1) (by omega)
    omega

/-! ## The start of a walk -/

/-- A record at which a walk may start: a retained one, beyond the pointer where there is one (R38). -/
def Store.mayStart (st : Store) (d : Direction) (n : Nat) : Prop :=
  st.keeps n ∧ ∀ r, st.lastRef = some r → d.beyond r n

/-- The lowest number at which a walk may start (R38). -/
def Store.startLow (st : Store) : Direction → Nat
  | .forward => st.lastRef.elim st.oldest (fun r => max (r + 1) st.oldest)
  | .backward => st.oldest

/-- The number above the highest at which a walk may start (R38). -/
def Store.startHigh (st : Store) : Direction → Nat
  | .forward => st.nextSeq
  | .backward => st.lastRef.elim st.nextSeq (fun r => min r st.nextSeq)

theorem Store.mayStart_iff (st : Store) (d : Direction) (n : Nat) :
    st.mayStart d n ↔ st.startLow d ≤ n ∧ n < st.startHigh d := by
  have hoff : st.oldest ≤ n ∧ n < st.nextSeq ↔ st.keeps n := Iff.rfl
  unfold Store.mayStart
  cases d <;> cases hl : st.lastRef <;> simp only [Store.startLow, Store.startHigh, hl, Option.elim]
  case forward.none | backward.none => exact and_iff_left nofun
  all_goals
    simp only [← hoff, Direction.beyond, Option.some.injEq, forall_eq']
    omega

/-- The model's start of a walk is the first number that may start it (R38). -/
theorem Store.walkStart_eq {st : Store} (hn : st.records.length ≤ st.nextSeq) (d : Direction) :
    st.walkStart d = d.firstOf (st.startLow d) (st.startHigh d) := by
  by_cases hempty : st.records = []
  · have hrange : ¬st.startLow d < st.startHigh d := fun hlt =>
      Store.not_keeps_of_empty hempty _ ((st.mayStart_iff d _).2 ⟨Nat.le_refl _, hlt⟩).1
    exact (if_pos hempty).trans (if_neg hrange).symm
  · have hends : st.oldest < st.nextSeq := (Store.keeps_ends hn hempty).1.2
    rw [Store.walkStart, if_neg hempty]
    cases d <;> cases hl : st.lastRef <;>
      simp only [Direction.firstOf, Store.startLow, Store.startHigh, hl, Option.elim]
    case forward.none | backward.none => exact (if_pos hends).symm
    case forward.some r => exact if_congr (by omega) rfl rfl
    case backward.some r => exact if_congr (by omega) (congrArg some (by omega)) rfl

/-- A walk begins at the first record that may start it (R38). -/
theorem Store.walkStart_eq_some {st : Store} (hn : st.records.length ≤ st.nextSeq) (d : Direction) (q : Nat) :
    st.walkStart d = some q ↔ st.walkBegins d q := by
  rw [Store.walkStart_eq hn]
  exact Direction.firstOf_eq_some (st.mayStart_iff d) q

end Sys2Proof.Machine

/-! SUPPORT. SEARCH: its direction, its criterion, and how its walk begins and ends. -/

namespace Sys2Proof.Machine

/-! ## What a SEARCH carries -/

theorem quadIndexOf_eq_some {n : Nat} {k : Fin 4} : quadIndexOf n = some k ↔ k.val = n := by
  unfold quadIndexOf
  split
  · simp only [Option.some.injEq, Fin.ext_iff]
    exact eq_comm
  · have := k.isLt
    exact ⟨nofun, fun h => by omega⟩

/-- The byte that names a direction (R170). -/
def Direction.code : Direction → Nat
  | .forward => 0
  | .backward => 1

theorem directionOf_eq_some {n : Nat} {d : Direction} : directionOf n = some d ↔ n = d.code := by
  match n with
  | 0 | 1 | n + 2 => cases d <;> simp [directionOf, Direction.code]

theorem recKindOfCode_eq_some {n : Nat} {k : RecKind} : recKindOfCode n = some k ↔ n = k.code := by
  match n with
  | 0 | 1 | 2 | n + 3 => cases k <;> simp [recKindOfCode, RecKind.code]

/-- The byte that names a marker kind (R170). -/
def MarkerKind.code : MarkerKind → Nat
  | .trigger => 0
  | .stage => 1
  | .signalIn => 2
  | .stateOverrun => 3

theorem markerKindOf_eq_some {n : Nat} {k : MarkerKind} : markerKindOf n = some k ↔ n = k.code := by
  match n with
  | 0 | 1 | 2 | 3 | n + 4 => cases k <;> simp [markerKindOf, MarkerKind.code]

/-- The direction and the criterion of a SEARCH are those that its bytes hold (R37, R170). -/
theorem searchReads_iff {o : OrderPost} {d : Direction} {c : Criterion} :
    searchReads o d c ↔ directionOf (paramNat o 2) = some d ∧ criterionOf o = some c := by
  refine and_congr directionOf_eq_some.symm ?_
  match hcode : paramNat o 3 with
  | 0 => cases c <;> simp [criterionOf, hcode, eq_comm]
  | 1 =>
    simp only [criterionOf, hcode, Option.bind_eq_bind, Option.bind_eq_some_iff, quadIndexOf_eq_some,
      recKindOfCode_eq_some]
    cases c with
    | runPattern _ _ | marker _ => simp
    | decodeWord slot kind value mask => cases kind <;> simp [RecKind.code, eq_comm (a := value), eq_comm (a := mask)]
  | 2 =>
    simp only [criterionOf, hcode, Option.map_eq_some_iff, markerKindOf_eq_some]
    cases c with
    | runPattern _ _ | decodeWord _ _ _ _ => simp
    | marker kind => cases kind <;> simp [MarkerKind.code]
  | n + 3 => cases c <;> simp [criterionOf, hcode]

/-! ## A SEARCH out of a capture -/

section Search
variable {o : OrderPost} {s : State} (hidle : s.capturing = false)
include hidle

/-- A unit that is not FREE is BUSY (R32, R37). -/
theorem judgeSearch_busy (h : s.readout ≠ .free) : judgeSearch o s = s.refuse .busy :=
  (if_neg (Bool.eq_false_iff.1 hidle)).trans (if_pos h)

variable (hfree : s.readout = .free)
include hfree

/-- A SEARCH whose bytes name no direction or no criterion is refused (R37). -/
theorem judgeSearch_range (h : ∀ d c, ¬searchReads o d c) : judgeSearch o s = s.refuse .range := by
  rw [judgeSearch, if_neg (Bool.eq_false_iff.1 hidle), if_neg (not_not.2 hfree)]
  split
  · rename_i d c hd hc
    exact absurd (searchReads_iff.2 ⟨hd, hc⟩) (h d c)
  · rfl

/-- A SEARCH that names both begins its walk (R38). -/
theorem judgeSearch_taken {d : Direction} {c : Criterion} (h : searchReads o d c) :
    judgeSearch o s = (s.beginWalk o.sender c d).ok := by
  obtain ⟨hd, hc⟩ := searchReads_iff.1 h
  rw [judgeSearch, if_neg (Bool.eq_false_iff.1 hidle), if_neg (not_not.2 hfree), hd, hc]

end Search

/-- The walk begins at the record that the pointer and the direction give (R38). -/
theorem State.beginWalk_begins {s : State} {d : Direction} {start : Nat}
    (hn : s.store.records.length ≤ s.store.nextSeq) (h : s.store.walkBegins d start) (dest : Station) (c : Criterion) :
    s.beginWalk dest c d = s.withReadout (.walking ⟨dest, c, d, start⟩) := by
  rw [State.beginWalk, (Store.walkStart_eq_some hn d start).2 h]

/-- With no such record the walk ends at once (R38). -/
theorem State.beginWalk_empty {s : State} {d : Direction} (hn : s.store.records.length ≤ s.store.nextSeq)
    (h : ∀ start, ¬s.store.walkBegins d start) (dest : Station) (c : Criterion) :
    s.beginWalk dest c d = s.emptyWalk dest := by
  have hnone : s.store.walkStart d = none :=
    Option.eq_none_iff_forall_ne_some.2 (fun start hs => h start ((Store.walkStart_eq_some hn d start).1 hs))
  rw [State.beginWalk, hnone]

/-- Settles O29, by the job of the unit, what the bytes name, and where the walk begins. -/
theorem searchJudged : Obligations.SearchJudged := by
  intro o s h hl hidle
  have hfits : (o.params.length == 8) = true := beq_iff_eq.2 hl
  have hidle' : State.capturing { s with link := s.heardLink } = false := hidle
  have htaken {d : Direction} {c : Criterion} (hfree : s.readout = .free) (hreads : searchReads o d c) :
      s.takeOrder 0x11 o (o.params.length == 8) (judgeSearch o)
        = (State.beginWalk { s with link := s.heardLink } o.sender c d).ok.settle 0x11 o := by
    rw [State.takeOrder_taken h _ hfits, judgeSearch_taken hidle' hfree hreads]
  refine ⟨fun hbusy => ?_, fun hfree hno => ?_, fun d c start hfree hreads hn hstart => ?_,
    fun d c hfree hreads hn hno => ?_⟩
  · exact State.takeOrder_refuses h _ hfits (judgeSearch_busy hidle' hbusy)
  · exact State.takeOrder_refuses h _ hfits (judgeSearch_range hidle' hfree hno)
  · refine congrArg Host.Outcome.next ((htaken hfree hreads).trans ?_)
    rw [State.beginWalk_begins (s := { s with link := s.heardLink }) hn hstart, Judged.settle_eq]
    rfl
  · refine ⟨_, (Config.freeSequence s.freeDraws).toNat, congrArg Host.Outcome.next (htaken hfree hreads), ?_⟩
    rw [State.beginWalk_empty (s := { s with link := s.heardLink }) hn hno, Judged.settle_eq]
    rfl

end Sys2Proof.Machine

/-! SUPPORT. The record at which a search walk ends, and the post that it leaves. -/

namespace Sys2Proof.Machine

/-! ## Criteria -/

/-- Two values are equal under a mask when they agree in its positions (R37). -/
theorem maskedEq_iff (mask x y : BitVec 16) : maskedEq x y mask = true ↔ agree mask x y := by
  simp only [maskedEq, beq_iff_eq, agree]
  constructor
  · intro h n _ hmask
    simpa [hmask] using congrArg (fun v => v.getLsbD n) h
  · intro h
    refine BitVec.eq_of_getLsbD_eq (fun n hn => ?_)
    cases hmask : mask.getLsbD n with
    | false => simp [hmask]
    | true => simp [hmask, h n hn hmask]

/-- A record is accepted when it matches the criterion (R37). -/
theorem Criterion.accepts_iff (c : Criterion) (r : Record) : c.accepts r = true ↔ c.matches r := by
  cases c with
  | runPattern pattern mask => cases r <;> simp [Criterion.accepts, Criterion.matches, maskedEq_iff]
  | decodeWord slot kind value mask =>
    cases r <;> simp [Criterion.accepts, Criterion.matches, maskedEq_iff, and_assoc]
  | marker kind => cases kind <;> cases r <;> simp [Criterion.accepts, Criterion.matches]

/-! ## The records that a walk visits -/

/-- The model's search of a list, by the library's. -/
theorem findForward_eq (c : Criterion) (i : Nat) (l : List Record) :
    findForward c i l = (l.findIdx? c.accepts).map (fun k => i + k) := by
  induction l generalizing i with
  | nil => rfl
  | cons r rest ih =>
    rw [findForward, List.findIdx?_cons, ih]
    split
    · rfl
    · rw [Option.map_map]
      exact congrArg (fun f => Option.map f _) (funext fun k => by simp only [Function.comp]; omega)

/-- A record at which a walk may end: a retained one, not before its start, that meets its criterion (R38). -/
def Store.mayEnd (st : Store) (j : WalkJob) (n : Nat) : Prop :=
  st.keeps n ∧ ¬j.direction.beyond n j.start ∧ ∃ r, st.recordAt n = some r ∧ j.criterion.matches r

/-- The list holds the retained records from the walk's start on, in its direction, the one at place `k` under the number
`seq k`. -/
structure Store.Visits (st : Store) (j : WalkJob) (l : List Record) (seq : Nat → Nat) : Prop where
  reads : ∀ k (h : k < l.length), st.recordAt (seq k) = some l[k]
  covers : ∀ n, st.keeps n ∧ ¬j.direction.beyond n j.start ↔ ∃ k < l.length, seq k = n
  ordered : ∀ m k, m < l.length → k < l.length → (j.direction.beyond (seq m) (seq k) ↔ m < k)

/-- Where a walk may end in terms of the list that it visits. -/
theorem Store.Visits.mayEnd_iff {st : Store} {j : WalkJob} {l : List Record} {seq : Nat → Nat} (h : st.Visits j l seq)
    (n : Nat) : st.mayEnd j n ↔ ∃ k, ∃ hk : k < l.length, seq k = n ∧ j.criterion.accepts l[k] = true := by
  rw [Store.mayEnd, ← and_assoc, h.covers]
  constructor
  · rintro ⟨⟨k, hk, rfl⟩, r, hr, hmatch⟩
    rw [h.reads k hk] at hr
    cases hr
    exact ⟨k, hk, rfl, (j.criterion.accepts_iff _).2 hmatch⟩
  · rintro ⟨k, hk, rfl, haccept⟩
    exact ⟨⟨k, hk, rfl⟩, _, h.reads k hk, (j.criterion.accepts_iff _).1 haccept⟩

/-- The first match of the visited list is where the walk ends (R38). -/
theorem Store.Visits.walkEnds_iff {st : Store} {j : WalkJob} {l : List Record} {seq : Nat → Nat}
    (h : st.Visits j l seq) (q : Nat) :
    (l.findIdx? j.criterion.accepts).map seq = some q ↔ st.walkEnds j q := by
  refine Direction.eq_some_iff_isFirst (p := st.mayEnd j) (fun q hq => ?_) (fun hnone n hn => ?_) q
  · obtain ⟨k, hfind, rfl⟩ := Option.map_eq_some_iff.1 hq
    obtain ⟨hk, haccept, hbefore⟩ := List.findIdx?_eq_some_iff_getElem.1 hfind
    refine ⟨(h.mayEnd_iff _).2 ⟨k, hk, rfl, haccept⟩, fun n hn hbeyond => ?_⟩
    obtain ⟨m, hm, rfl, haccept'⟩ := (h.mayEnd_iff n).1 hn
    exact hbefore m ((h.ordered m k hm hk).1 hbeyond) haccept'
  · obtain ⟨k, hk, -, haccept⟩ := (h.mayEnd_iff n).1 hn
    have hreject := List.findIdx?_eq_none_iff.1 (Option.map_eq_none_iff.1 hnone) _ (List.getElem_mem hk)
    exact Bool.false_ne_true (hreject.symm.trans haccept)

/-- A walk forward visits the records from its start up to the newest (R38). -/
theorem Store.visits_forward {st : Store} {j : WalkJob} (hn : st.records.length ≤ st.nextSeq)
    (hd : j.direction = .forward) :
    st.Visits j (st.records.drop (max j.start st.oldest - st.oldest)) (fun k => max j.start st.oldest + k) := by
  have hoff : st.oldest = st.nextSeq - st.records.length := rfl
  refine ⟨fun k hk => ?_, fun n => ?_, fun m k _ _ => ?_⟩
  · rw [Store.recordAt_eq (by omega), ← List.getElem?_eq_getElem hk, List.getElem?_drop]
    exact congrArg _ (by omega)
  · simp only [Store.keeps, hd, Direction.beyond, List.length_drop]
    exact ⟨fun h => ⟨n - max j.start st.oldest, by omega, by omega⟩, fun ⟨k, hk, h⟩ => by omega⟩
  · simp only [hd, Direction.beyond]
    omega

/-- A walk backward visits the records from its start down to the oldest (R38). -/
theorem Store.visits_backward {st : Store} {j : WalkJob} (hn : st.records.length ≤ st.nextSeq)
    (hd : j.direction = .backward) (hs : st.oldest ≤ j.start) :
    st.Visits j (st.records.take (min j.start (st.nextSeq - 1) - st.oldest + 1)).reverse
      (fun k => min j.start (st.nextSeq - 1) - k) := by
  have hoff : st.oldest = st.nextSeq - st.records.length := rfl
  refine ⟨fun k hk => ?_, fun n => ?_, fun m k hm hk => ?_⟩
  · rw [← List.getElem?_eq_getElem hk]
    rw [List.length_reverse, List.length_take] at hk
    rw [Store.recordAt_eq (by omega), List.getElem?_reverse (by rw [List.length_take]; exact hk), List.length_take,
      List.getElem?_take_of_lt (by omega)]
    exact congrArg _ (by omega)
  · simp only [Store.keeps, hd, Direction.beyond, List.length_reverse, List.length_take]
    exact ⟨fun h => ⟨min j.start (st.nextSeq - 1) - n, by omega, by omega⟩, fun ⟨k, hk, h⟩ => by omega⟩
  · simp only [List.length_reverse, List.length_take] at hm hk
    simp only [hd, Direction.beyond]
    omega

/-- A walk backward from below the oldest visits nothing (R38). -/
theorem Store.visits_nothing {st : Store} {j : WalkJob} (hd : j.direction = .backward) (hs : j.start < st.oldest) :
    st.Visits j [] id := by
  refine ⟨nofun, fun n => ⟨fun ⟨hkeeps, hstart⟩ => ?_, nofun⟩, nofun⟩
  simp only [hd, Direction.beyond] at hstart
  exact absurd (Nat.lt_of_lt_of_le hs hkeeps.1) hstart

/-- A walk finds the record at which it ends (R38). -/
theorem Store.walkFind_eq_some {st : Store} (hn : st.records.length ≤ st.nextSeq) (j : WalkJob) (q : Nat) :
    st.walkFind j = some q ↔ st.walkEnds j q := by
  unfold Store.walkFind
  cases hd : j.direction with
  | forward =>
    simp only [findForward_eq]
    exact (Store.visits_forward hn hd).walkEnds_iff q
  | backward =>
    simp only [findForward_eq, Option.map_map]
    split
    · rename_i hs
      exact (Store.visits_nothing hd hs).walkEnds_iff q
    · rename_i hs
      simp only [Function.comp_def, Nat.zero_add]
      exact (Store.visits_backward hn hd (Nat.not_lt.1 hs)).walkEnds_iff q

/-! ## The end of a walk -/

/-- The command ends the walk of a node out of reset (R38, R183). -/
theorem State.searchWalkEnd_eq {s : State} {j : WalkJob} (hr : s.resetHeld = false) (hw : s.readout = .walking j) :
    exec .searchWalkEnd s = .next (s.endWalk j) := by
  show execSearchWalkEnd s = _
  simp only [execSearchWalkEnd, hw, hr, Bool.false_eq_true, if_false]

/-- Settles O48, by the record that the walk finds. -/
theorem searchWalkEnds : Obligations.SearchWalkEnds := by
  intro s j hr hw hn
  refine ⟨fun q r hends hrecord => ?_, fun hno => ?_⟩ <;> rw [State.searchWalkEnd_eq hr hw, State.endWalk]
  · rw [(Store.walkFind_eq_some hn j q).2 hends]
    simp only [hrecord, Option.toList_some]
    rfl
  · rw [Option.eq_none_iff_forall_ne_some.2 (fun q hq => hno q ((Store.walkFind_eq_some hn j q).1 hq))]
    rfl

end Sys2Proof.Machine

/-! SUPPORT. A building read, record by record. -/

namespace Sys2Proof.Machine

/-! ## One step of a read -/

/-- The command takes a read on once its answer was sent, in a node out of reset (R34, R183). -/
theorem State.readBuild_eq {s : State} {j : ReadJob} (hr : s.resetHeld = false) (hb : s.readout = .building j)
    (hw : j.waitsForAnswer = false) : exec .readBuild s = .next (s.buildStep j) := by
  show execReadBuild s = _
  simp only [execReadBuild, hb, hr, hw, Bool.or_self, Bool.false_eq_true, if_false]

section Step
variable {s : State} {j : ReadJob}

/-- Past the newest record the read closes with END (R34, log 26). -/
theorem State.buildStep_atEnd (h : s.store.nextSeq ≤ j.next) :
    s.buildStep j = s.finishRead j { j.post with atEnd := true } := if_pos h

/-- Below the oldest record the read was overwritten (R34, log 38). -/
theorem State.buildStep_overwritten (h : j.next < s.store.oldest) :
    s.buildStep j = s.finishRead j { j.post with overwritten := true } := by
  have hnext : ¬s.store.nextSeq ≤ j.next := Nat.not_le.2 (Nat.lt_of_lt_of_le h (Nat.sub_le _ _))
  rw [State.buildStep, if_neg hnext, Store.recordAt_gone h]

variable {r : Record} (hnext : j.next < s.store.nextSeq) (hr : s.store.recordAt j.next = some r)
include hnext hr

/-- A record before the last is copied, and the read goes on (R34). -/
theorem State.buildStep_goesOn (h : j.copied.length + 1 < j.want) :
    s.buildStep j = s.withReadout (.building { j with copied := j.copied ++ [r] }) := by
  simp only [State.buildStep, if_neg (Nat.not_le.2 hnext), hr]
  exact if_pos (by rw [List.length_append]; exact h)

/-- With its last record the read finishes, with END where the selection named fewer than the count (R34). -/
theorem State.buildStep_last (h : j.want ≤ j.copied.length + 1) :
    s.buildStep j = s.finishRead { j with copied := j.copied ++ [r] }
      { j.post with records := j.copied ++ [r], atEnd := decide (j.want < j.count) } := by
  simp only [State.buildStep, if_neg (Nat.not_le.2 hnext), hr]
  exact if_neg (by rw [List.length_append]; exact Nat.not_lt.2 h)

end Step

/-- The far end of a read is its last copied record, or the first of a downward read (R35). -/
theorem ReadJob.farEnd_copied (j : ReadJob) (r : Record) (old : Option Nat) :
    ReadJob.farEnd { j with copied := j.copied ++ [r] } old = some (if j.downward then j.firstSeq else j.next) := by
  have hcopied : j.copied ++ [r] ≠ [] := List.append_ne_nil_of_right_ne_nil _ (List.cons_ne_nil _ _)
  rw [ReadJob.farEnd, if_neg hcopied, List.length_append]
  rfl

/-- Settles O47, by where the next record of the read stands. -/
theorem readBuildCopiesRecords : Obligations.ReadBuildCopiesRecords := by
  intro s j hr hb hw next farEnd
  have hexec := State.readBuild_eq hr hb hw
  refine ⟨fun hend => ?_, fun hgone => ?_, fun r hrecord hnext => ⟨fun hmore => ?_, fun hlast => ?_⟩⟩
  · rw [hexec, State.buildStep_atEnd hend]
    rfl
  · rw [hexec, State.buildStep_overwritten hgone]
    rfl
  · rw [hexec, State.buildStep_goesOn hnext hrecord hmore]
    rfl
  · rw [hexec, State.buildStep_last hnext hrecord hlast, State.finishRead, ReadJob.farEnd_copied]
    rfl

end Sys2Proof.Machine

/-! SUPPORT. One record brought to a full store: what it overwrites, and whom the overwrite is announced to. -/

namespace Sys2Proof.Machine

/-! ## Announcements -/

section Announced
variable {s : State} {q : Nat}

/-- A read that has still to copy the record closes with OVERWRITTEN (R28, R34). -/
theorem State.announceToReadout_closes {j : ReadJob} (hb : s.readout = .building j)
    (h : j.waitsForAnswer = false ∧ j.next ≤ q ∧ q < j.firstSeq + j.want) :
    s.announceToReadout q = s.finishRead j { j.post with overwritten := true } := by
  obtain ⟨hw, hcopy⟩ := h
  simp only [State.announceToReadout, hb, hw, Bool.not_false, Bool.true_and, decide_eq_true hcopy, if_true]

/-- Every other job goes on (R28, R34, log 38). -/
theorem State.announceToReadout_passes
    (h : ∀ j, s.readout = .building j → ¬(j.waitsForAnswer = false ∧ j.next ≤ q ∧ q < j.firstSeq + j.want)) :
    s.announceToReadout q = s := by
  unfold State.announceToReadout
  split
  · rename_i j hb
    have hkept := h j hb
    refine if_neg (fun hc => hkept ?_)
    simpa using hc
  all_goals rfl

end Announced

/-- A pass in PASSING whose floor the overwrite reaches is overtaken (R146). -/
theorem ColumnEngine.overwrite_overtakes {e : ColumnEngine} {p : Reduction} {q : Nat} (hc : e.current = some p)
    (hp : p.phase = .passing) (hq : p.snapshot.floor.getD (p.snapshot.horizon + 1) ≤ q) :
    e.overwrite q =
      { e with
        current := some { p with phase := .closing }
        outgoing := e.outgoing ++ [p.endPost true p.pass p.snapshot.window e.nextColumn .overtaken] } := by
  simp only [ColumnEngine.overwrite, hc, hp, hq, and_self, if_true]

/-- Every other pass goes on (R146). -/
theorem ColumnEngine.overwrite_passes {e : ColumnEngine} {q : Nat}
    (h : ∀ p, e.current = some p → p.phase = .passing → q < p.snapshot.floor.getD (p.snapshot.horizon + 1)) :
    e.overwrite q = e := by
  unfold ColumnEngine.overwrite
  split
  · rfl
  · rename_i p hc
    exact if_neg (fun ⟨hp, hq⟩ => Nat.not_le.2 (h p hc hp) hq)

/-- An announcement meets the Column Engine whatever the readout unit does (R28). -/
theorem State.announce_columns (s : State) (q : Nat) : (s.announce q).columns = s.columns.overwrite q :=
  State.announceToReadout_columns _ q

/-- An announcement that closes a read leaves its post, and the pointer at its far end (R28, R34, R35). -/
theorem State.announce_closes {s : State} {q : Nat} {j : ReadJob} (hb : s.readout = .building j)
    (h : j.waitsForAnswer = false ∧ j.next ≤ q ∧ q < j.firstSeq + j.want) :
    (s.announce q).readout = .holding { j.post with overwritten := true }
      ∧ (s.announce q).store.lastRef = j.farEnd s.store.lastRef := by
  rw [State.announce, State.announceToReadout_closes (s := s.withColumns (s.columns.overwrite q)) hb h]
  exact ⟨rfl, rfl⟩

/-- Any other announcement leaves the readout unit and the pointer (R28). -/
theorem State.announce_passes {s : State} {q : Nat}
    (h : ∀ j, s.readout = .building j → ¬(j.waitsForAnswer = false ∧ j.next ≤ q ∧ q < j.firstSeq + j.want)) :
    (s.announce q).readout = s.readout ∧ (s.announce q).store.lastRef = s.store.lastRef := by
  rw [State.announce, State.announceToReadout_passes (s := s.withColumns (s.columns.overwrite q)) h]
  exact ⟨rfl, rfl⟩

/-! ## A full store -/

/-- Whether a full store gives up its oldest record (R23, R25). -/
theorem Store.mayOverwrite_iff (st : Store) :
    st.mayOverwrite = true ↔ st.trigger = none
      ∨ ∃ p, st.trigger = some p ∧ min st.floor p.n0 < p.sequence - (st.nextSeq - st.records.length) := by
  cases ht : st.trigger with
  | none => simp [Store.mayOverwrite, ht]
  | some p => simp [Store.mayOverwrite, Store.preTrigger, Store.oldest, ht]

section Full
variable {s : State} (hfull : 65536 ≤ s.store.records.length)
include hfull

/-- A full store that gives up its oldest record takes the new one and announces the overwrite (R23, R25, R28). -/
theorem State.place_overwrites (h : s.store.mayOverwrite = true) (r : Record) :
    s.place r = some ((s.withStore (s.store.dropOldest.append r)).announce s.store.oldest) :=
  (if_neg (Nat.not_lt.2 hfull)).trans (if_pos h)

/-- A full store that keeps its oldest record refuses the new one (R25, R26). -/
theorem State.place_full_refuses (h : ¬s.store.mayOverwrite = true) (r : Record) : s.place r = none :=
  (if_neg (Nat.not_lt.2 hfull)).trans (if_neg h)

end Full

/-- Settles O54, by the free slots, by what a full store gives up, and by whom the announcement meets. -/
theorem recordsArePlacedByTheStoresRule : Obligations.RecordsArePlacedByTheStoresRule := by
  intro s r oldest
  refine ⟨fun hfree => State.place_free s r hfree, fun hfull hgives => ?_, fun p hfull ht hkeeps => ?_⟩
  · have hplace := State.place_overwrites hfull ((Store.mayOverwrite_iff s.store).2 hgives) r
    obtain ⟨hplacement, hfloor, htrigger⟩ := State.place_store hplace
    have hstore := State.announce_store (s.withStore (s.store.dropOldest.append r)) s.store.oldest
    have hcolumns := State.announce_columns (s.withStore (s.store.dropOldest.append r)) s.store.oldest
    refine ⟨_, hplace, State.place_frame hplace, congrArg Store.records hstore, congrArg Store.nextSeq hstore, htrigger,
      hfloor, hplacement, fun j hb => ⟨fun hc => ?_, fun hc => ?_⟩, fun hno => ?_, fun p hcur hp hq => ?_, fun hno => ?_⟩
    · exact State.announce_closes (s := s.withStore _) hb hc
    · refine State.announce_passes (s := s.withStore _) (fun j' hb' => ?_)
      obtain rfl : j = j' := Readout.building.inj (hb.symm.trans hb')
      exact hc
    · exact State.announce_passes (s := s.withStore _) (fun j hb => absurd hb (hno j))
    · exact hcolumns.trans (ColumnEngine.overwrite_overtakes hcur hp hq)
    · exact hcolumns.trans (ColumnEngine.overwrite_passes hno)
  · refine State.place_full_refuses hfull (fun hm => ?_) r
    rcases (Store.mayOverwrite_iff s.store).1 hm with hnone | ⟨p', ht', hlt⟩
    · exact nomatch hnone.symm.trans ht
    · obtain rfl : p = p' := Option.some.inj (ht.symm.trans ht')
      omega

end Sys2Proof.Machine

/-! SUPPORT. The return from standby that an order brings, the settings of the capture, FORCE_TRIGGER and RELEASE. -/

namespace Sys2Proof.Machine

/-! ## What an order is judged on -/

/-- Two nodes receive posts, and are the same once they have heard one and left standby (R54, R155). -/
def State.awakensAs (s t : State) : Prop :=
  s.receives = true ∧ t.receives = true ∧ s.hearPost.leaveStandby = t.hearPost.leaveStandby

/-- An order is judged on the state after the return from standby (R54). -/
theorem State.takeOrder_awake {s t : State} (h : s.awakensAs t) (code : Byte) (o : OrderPost) (fits : Bool)
    (judge : State → Judged) : s.takeOrder code o fits judge = t.takeOrder code o fits judge := by
  obtain ⟨hs, ht, hsame⟩ := h
  rw [State.takeOrder, State.takeOrder, if_pos hs, if_pos ht, hsame]

/-- A RESET is judged on the state after the return from standby (R54, R182). -/
theorem State.takeReset_awake {s t : State} (h : s.awakensAs t) (o : OrderPost) : s.takeReset o = t.takeReset o := by
  obtain ⟨hs, ht, hsame⟩ := h
  rw [State.takeReset, State.takeReset, if_pos hs, if_pos ht, hsame]

/-- An order that names nothing brings the return from standby too, even one without a tag, which is not judged (R54, R171). -/
theorem execUnknownOrder_awake {s t : State} (h : s.awakensAs t) (sender : Station) (toAll : Bool) (payload : List Byte) :
    execUnknownOrder sender toAll payload s = execUnknownOrder sender toAll payload t := by
  obtain ⟨hs, ht, hsame⟩ := id h
  match payload with
  | [] | [_] => simp only [execUnknownOrder, if_pos hs, if_pos ht, hsame]
  | code :: tag :: params =>
    exact congrArg Host.Outcome.next (State.takeOrder_awake h code ⟨sender, toAll, tag, params⟩ _ _)

/-- Every order does the same to nodes that awaken alike. -/
theorem exec_awake {i : Instr} (hi : isOrder i = true) {s t : State} (h : s.awakensAs t) : exec i s = exec i t := by
  have taken (code : Byte) (o : OrderPost) (fits : Bool) (judge : State → Judged) :
      (Host.Outcome.next (s.takeOrder code o fits judge) : Host.Outcome State Fault Refusal)
        = .next (t.takeOrder code o fits judge) := congrArg Host.Outcome.next (State.takeOrder_awake h code o fits judge)
  cases i with
  | configureChannels o => exact taken _ o _ _
  | setSampling o => exact taken _ o _ _
  | setCapture o => exact taken _ o _ _
  | setCounter o => exact taken _ o _ _
  | setDecoder o => exact taken _ o _ _
  | loadBegin o => exact taken _ o _ _
  | loadPart o => exact taken _ o _ _
  | arm o => exact taken _ o _ _
  | forceTrigger o => exact taken _ o _ _
  | abort o => exact taken _ o _ _
  | release o => exact taken _ o _ _
  | standby o => exact taken _ o _ _
  | streamOn o => exact taken _ o _ _
  | streamOff o => exact taken _ o _ _
  | reduce o => exact taken _ o _ _
  | reduceCancel o => exact taken _ o _ _
  | readRecords o => exact taken _ o _ _
  | search o => exact taken _ o _ _
  | query o => exact taken _ o _ _
  | readFault o => exact taken _ o _ _
  | clearFault o => exact taken _ o _ _
  | reset o => exact congrArg Host.Outcome.next (State.takeReset_awake h o)
  | unknownOrder sender toAll payload => exact execUnknownOrder_awake h sender toAll payload
  | signalReceipt _ _ _ | mark _ _ | postDiscarded _ | transition _ _ | sample | activeEdge | holdSampleDue | delayLineDue
  | interlockedTimeout _ | counterExpiry _ | counterOverflow _ | depth | noTrigger | timeLimit | loadTimeout | batchTimeout
  | repeatTimerExpiry | readBuild | searchWalkEnd | lineIdle | postStart | sentInFull | withdrawn | collision | resetPin
  | resetPinRelease _ _ => cases hi

/-- A node in STANDBY awakens as the node that stands in its return state (R54). -/
theorem State.standby_awakensAs {s : State} (hr : s.receives = true) (hs : s.capture.state = .standby)
    (hc : s.capture.standbyConsistent) :
    s.awakensAs
      { s with capture := { s.capture with state := s.capture.returnState.getD .idle, returnState := none } } := by
  have hreturn : s.capture.returnState.getD .idle ≠ .standby := by
    rw [CaptureControl.standbyConsistent, if_pos hs] at hc
    rcases hc with h | h <;> rw [h] <;> decide
  refine ⟨hr, hr, ?_⟩
  rw [State.leaveStandby_of_standby (s := s.hearPost) hs]
  exact (State.leaveStandby_eq (s := State.hearPost { s with capture := { s.capture with
    state := s.capture.returnState.getD .idle, returnState := none } }) hreturn).symm

/-- Settles O6: what an order does is a matter of the state after the return. -/
theorem orderEndsStandby : Obligations.OrderEndsStandby :=
  fun _ _ hi hr hs hc => exec_awake hi (State.standby_awakensAs hr hs hc)

/-! ## The settings of the capture -/

/-- Hearing a post begins no capture (R154). -/
theorem State.heard_idle {s : State} (hc : s.capturing = false) : ¬State.capturing { s with link := s.heardLink } = true := by
  rw [Bool.not_eq_true]
  exact hc

/-- Pre-trigger floor, post depth and arm limit (R56). -/
def State.captureSettings (u : State) : Nat × Nat × Nat := (u.store.floor, u.capture.postDepth, u.capture.armLimit)

theorem Judged.settle_captureSettings (j : Judged) (code : Byte) (o : OrderPost) :
    (j.settle code o).captureSettings = j.state.captureSettings := by
  rw [Judged.settle_eq]
  rfl

theorem State.leaveStandby_captureSettings (s : State) : s.leaveStandby.captureSettings = s.captureSettings := by
  rw [State.leaveStandby, CaptureControl.leaveStandby]
  split <;> rfl

/-- An order leaves the settings of the capture when its judge does. -/
theorem State.takeOrder_captureSettings (s : State) (code : Byte) (o : OrderPost) (fits : Bool) {judge : State → Judged}
    (hj : ∀ u, (judge u).state.captureSettings = u.captureSettings) :
    (s.takeOrder code o fits judge).captureSettings = s.captureSettings := by
  have hawake : s.hearPost.leaveStandby.captureSettings = s.captureSettings :=
    State.leaveStandby_captureSettings s.hearPost
  unfold State.takeOrder State.dispatchOrder
  split
  swap
  · rfl
  split
  · exact hawake
  rw [Judged.settle_captureSettings]
  split
  · exact (hj _).trans hawake
  · exact hawake

theorem judgeArm_captureSettings (o : OrderPost) (u : State) : (judgeArm o u).state.captureSettings = u.captureSettings := by
  unfold judgeArm
  split
  · rfl
  split
  · rfl
  split
  · rfl
  · show u.armEffects.captureSettings = _
    rw [State.captureSettings, State.armEffects_store, State.armEffects_capture]
    rfl

theorem judgeAbort_captureSettings (u : State) : (judgeAbort u).state.captureSettings = u.captureSettings := by
  unfold judgeAbort
  split
  · show (u.endCapture .aborted).discardQueue.captureSettings = _
    rw [State.discardQueue_eq, State.captureSettings, State.endCapture_store, State.endCapture_capture,
      State.closeLastRun_floor]
    rfl
  · rfl

theorem judgeRelease_captureSettings (u : State) : (judgeRelease u).state.captureSettings = u.captureSettings := by
  unfold judgeRelease
  split <;> rfl

theorem judgeStandby_captureSettings (o : OrderPost) (u : State) :
    (judgeStandby o u).state.captureSettings = u.captureSettings := by
  unfold judgeStandby
  split
  · rfl
  split
  · rfl
  split
  · rfl
  split <;> rfl

/-- ARM, ABORT, RELEASE and STANDBY leave the settings, whatever becomes of them (R56). -/
theorem exec_captureSettings {o : OrderPost} {s t : State} {i : Instr}
    (hi : i = .arm o ∨ i = .abort o ∨ i = .release o ∨ i = .standby o) (ht : exec i s = .next t) :
    t.captureSettings = s.captureSettings := by
  rcases hi with rfl | rfl | rfl | rfl <;> cases ht
  · exact State.takeOrder_captureSettings _ _ _ _ (judgeArm_captureSettings o)
  · exact State.takeOrder_captureSettings _ _ _ _ judgeAbort_captureSettings
  · exact State.takeOrder_captureSettings _ _ _ _ judgeRelease_captureSettings
  · exact State.takeOrder_captureSettings _ _ _ _ (judgeStandby_captureSettings o)

/-- A RESET that fits brings the reset values of the settings (R56, R182). -/
theorem State.takeReset_captureSettings {s : State} {o : OrderPost} (hr : s.receives = true) (hl : o.params.length = 0) :
    (s.takeReset o).captureSettings = (32768, 65536, 0) := by
  rw [State.takeReset, if_pos hr]
  dsimp only
  rw [if_pos hl, Judged.settle_captureSettings]
  rfl

/-- A SET_CAPTURE outside a capture writes the settings (R56). -/
theorem judgeSetCapture_idle {s : State} (o : OrderPost) (hc : ¬s.capturing = true) :
    judgeSetCapture o s =
      ((s.withStore { s.store with floor := min 65535 (paramField o 2 4) }).withCapture
        { s.capture with postDepth := paramField o 6 4, armLimit := paramField o 10 2 }).okOrClamped
        (decide (65535 < paramField o 2 4)) := if_neg hc

/-- Settles O13, clause by clause of R56. -/
theorem setCaptureTaken : Obligations.SetCaptureTaken := by
  unfold Obligations.SetCaptureTaken
  intro settings
  refine ⟨fun o s h hl hc => ?_, fun o s h hl hc => ?_, fun o s hr hs hcons => ?_, fun s => ⟨_, rfl, rfl⟩,
    fun o s hr hl => ⟨_, rfl, State.takeReset_captureSettings hr hl⟩, fun o s t i hi ht => exec_captureSettings hi ht⟩
  · refine congrArg Host.Outcome.next ?_
    rw [State.takeOrder_taken h _ (beq_iff_eq.2 hl), judgeSetCapture_idle o (State.heard_idle hc), Judged.settle_eq]
    simp only [State.okOrClamped, decide_eq_true_eq]
    rfl
  · exact State.takeOrder_refuses h _ (beq_iff_eq.2 hl) (judgeSetCapture_capturing o hc)
  · exact exec_awake (i := .setCapture o) rfl (State.standby_awakensAs hr hs hcons)

/-! ## FORCE_TRIGGER and RELEASE -/

/-- Settles O20, by whether the node stands in the one state in which the order is taken. -/
theorem forceTriggerAndRelease : Obligations.ForceTriggerAndRelease := by
  intro o s h hl
  have hfits : (o.params.length == 0) = true := beq_iff_eq.2 hl
  refine ⟨fun ha => ?_, fun hn => ?_, fun hd => ?_, fun hn => ?_⟩
  · have hj : judgeForceTrigger { s with link := s.heardLink }
        = (State.withCapture { s with link := s.heardLink } { s.capture with forcePending := true }).ok := if_pos ha
    refine congrArg Host.Outcome.next ?_
    rw [State.takeOrder_taken h _ hfits, hj, Judged.settle_eq]
    rfl
  · exact State.takeOrder_refuses (judge := judgeForceTrigger) h _ hfits (if_neg hn)
  · have hj : judgeRelease { s with link := s.heardLink }
        = (State.withCapture { s with link := s.heardLink } { s.capture with state := .idle }).ok := if_pos hd
    refine congrArg Host.Outcome.next ?_
    rw [State.takeOrder_taken h _ hfits, hj, Judged.settle_eq]
    rfl
  · exact State.takeOrder_refuses (judge := judgeRelease) h _ hfits (if_neg hn)

end Sys2Proof.Machine

/-! SUPPORT. Capture ends without a sample: ABORT, the arm-limit timer and the last tick; and the end at the last sample. -/

namespace Sys2Proof.Machine

/-! ## The closing run -/

section Closing
variable {s : State} {w : Reason} (hw : w ≠ .storeLimit)
include hw

/-- Without an open run there is nothing to close (R17). -/
theorem State.closeLastRun_none (h : s.sampler.openRun = none) : s.closeLastRun w = (s, w) := by
  rw [State.closeLastRun, if_neg hw, h]

/-- A closing run that finds no place makes the reason STORE_LIMIT (R26). -/
theorem State.closeLastRun_refused {r : Run} (h : s.sampler.openRun = some r) (hp : s.place (.run r) = none) :
    s.closeLastRun w = (s, .storeLimit) := by
  rw [State.closeLastRun, if_neg hw, h]
  dsimp only
  rw [hp]

/-- A closing run that finds a place is placed (R17, R23, R25). -/
theorem State.closeLastRun_placed {r : Run} {u : State} (h : s.sampler.openRun = some r)
    (hp : s.place (.run r) = some u) : s.closeLastRun w = (u, w) := by
  rw [State.closeLastRun, if_neg hw, h]
  dsimp only
  rw [hp]

end Closing

/-- Closing the last run leaves the trigger position (R24). -/
theorem State.closeLastRun_trigger (s : State) (w : Reason) : (s.closeLastRun w).1.store.trigger = s.store.trigger := by
  unfold State.closeLastRun
  split
  · rfl
  split
  · rfl
  split
  · rfl
  · rename_i hp
    obtain ⟨-, -, htrigger⟩ := State.place_store hp
    exact htrigger

/-! ## The end of the capture -/

/-- A capture end changes the blocks that take part in a capture, and no other. -/
theorem State.endCapture_frame (s : State) (w : Reason) :
    s.endCapture w = { s with
      sampler := (s.endCapture w).sampler, store := (s.endCapture w).store, readout := (s.endCapture w).readout,
      capture := (s.endCapture w).capture, counters := (s.endCapture w).counters,
      decoders := (s.endCapture w).decoders, columns := (s.endCapture w).columns, orders := (s.endCapture w).orders } := by
  have hrest (t : State) (time : t.time = s.time) (pfe : t.pfe = s.pfe) (seq : t.seq = s.seq)
      (streamer : t.streamer = s.streamer) (link : t.link = s.link) (held : t.resetHeld = s.resetHeld)
      (draws : t.freeDraws = s.freeDraws) (pending : t.pending = s.pending) :
      t = { s with
        sampler := t.sampler, store := t.store, readout := t.readout, capture := t.capture, counters := t.counters,
        decoders := t.decoders, columns := t.columns, orders := t.orders } := by
    rw [← time, ← pfe, ← seq, ← streamer, ← link, ← held, ← draws, ← pending]
  exact hrest _ (s.endCapture_time w) (s.endCapture_pfe w) (s.endCapture_seq w) (s.endCapture_streamer w)
    (s.endCapture_link w) (s.endCapture_resetHeld w) (s.endCapture_freeDraws w) (s.endCapture_pending w)

/-- What the closing run decides of a capture end: the recorded reason, the store and its readers. -/
theorem State.endCapture_closes {s u : State} {w why : Reason} (h : s.closeLastRun w = (u, why)) :
    (s.endCapture w).capture.reason = why ∧ (s.endCapture w).store = { u.store with placement := [] }
      ∧ (s.endCapture w).readout = u.readout ∧ (s.endCapture w).columns = u.columns := by
  rw [State.endCapture_capture, State.endCapture_store, State.endCapture_readout, State.endCapture_columns, h]
  exact ⟨rfl, rfl, rfl, rfl⟩

/-- What every capture end leaves that does not come from a refused record (R17, R26, R50). -/
theorem State.endCapture_ended (s : State) {w : Reason} (hw : w ≠ .storeLimit) : CaptureEnded s w (s.endCapture w) where
  frame := s.endCapture_frame w
  capture := by
    rw [State.endCapture_capture]
    rfl
  noRun h := State.endCapture_closes (State.closeLastRun_none hw h)
  refused _ h hp := State.endCapture_closes (State.closeLastRun_refused hw h hp)
  placed _ _ h hp := State.endCapture_closes (State.closeLastRun_placed hw h hp)
  sampler := s.endCapture_sampler w
  decoders d := by
    rw [State.endCapture_decoders]
    exact Quad.get_map _ _ d
  copySet := by
    rw [State.endCapture_decoders]
    rfl
  counters := by
    rw [State.endCapture_counters]
    exact s.counters.stops
  orders := by
    rw [State.endCapture_orders, State.endCapture_capture]
    rfl

/-! ## The timers -/

/-- Settles O45: either timer's event is a capture end. -/
theorem timersEndTheCapture : Obligations.TimersEndTheCapture := by
  intro s hr
  refine ⟨fun x harmed htimer hx => ⟨_, ?_, s.endCapture_ended (by decide)⟩,
    fun hc hmax => ⟨_, ?_, s.endCapture_ended (by decide)⟩⟩
  · have hdue : s.armLimitDue = true := by
      simp [State.armLimitDue, State.tick, hr, harmed, htimer, hx]
    exact congrArg Host.Outcome.next (if_pos hdue)
  · have hdue : s.tickLimitDue = true := by
      simp [State.tickLimitDue, State.tick, Config.tickMax, hr, hc, hmax]
    exact congrArg Host.Outcome.next (if_pos hdue)

/-! ## The last sample -/

/-- In TRIGGERED a sample counts the post depth down, and none is the trigger sample (R45, R47). -/
theorem State.sampleCapture_triggered {s : State} (h : s.capture.state = .triggered) :
    s.sampleCapture = { s.capture with countdown := s.capture.countdown - 1 } := by
  have hcause : ¬s.sampleCause.isSome = true := fun hc => nomatch h.symm.trans (State.sampleCause_armed hc)
  rw [State.sampleCapture, if_neg hcause, if_pos h]

/-- A sample that completes the post depth ends the capture with DEPTH, or with STORE_LIMIT when one of its records finds no
place (R26, R47). -/
theorem State.takeSample_ends {s : State} (h : s.sampleEnds = true) (a : Bool) :
    (s.takeSample a).capture = s.sampleCapture.finish .depth
      ∨ (s.takeSample a).capture = s.sampleCapture.finish .storeLimit := by
  rcases State.settle_cases (s := s) a with
    ⟨-, -, hlimit, -⟩ | ⟨-, hgoes, -⟩ | ⟨-, -, -, ⟨_, -, hdepth, -⟩ | ⟨-, hlimit, -⟩⟩
  · exact .inr hlimit
  · exact nomatch h.symm.trans hgoes
  · exact .inl hdepth
  · exact .inr hlimit

/-- Settles O44: the due grid sample completes the post depth. -/
theorem depthEndsTheCapture : Obligations.DepthEndsTheCapture := by
  intro s hr hs hone hm hd hl
  have hc : s.capturing = true := by
    rw [State.capturing, hs]
    rfl
  have hcapture := State.sampleCapture_triggered hs
  have hends : s.sampleEnds = true := by
    rw [State.sampleEnds, hcapture, hone]
    exact decide_eq_true ⟨hs, rfl⟩
  obtain ⟨why, hwhy, hfinal⟩ : ∃ why, (why = .depth ∨ why = .storeLimit)
      ∧ (s.takeSample false).capture = { s.capture with countdown := s.capture.countdown - 1 }.finish why := by
    rw [← hcapture]
    rcases State.takeSample_ends hends false with h | h
    · exact ⟨_, .inl rfl, h⟩
    · exact ⟨_, .inr rfl, h⟩
  have hdone : (s.takeSample false).capture.state = .done := by rw [hfinal]; rfl
  have hzero : (s.takeSample false).capture.countdown = 0 := by
    rw [hfinal]
    exact congrArg (· - 1) hone
  have hhandled := State.takeSample_handles false hc
  refine ⟨_, ?_, hhandled, hdone, hzero, ?_, hhandled.done.trans (if_pos hdone), hhandled.openRun.trans (if_pos hdone)⟩
  · have hdue : s.dueSample = some (s.takeSample false) := if_pos (s.gridDue_iff.2 ⟨hr, hc, hm, hd, hl⟩)
    have hended : (s.takeSample false).endedByDepth = true := by
      rw [State.endedByDepth, hdone, hzero]
      rfl
    have hcounting : ¬(s.capture.state = .triggered ∧ s.capture.countdown = 0) := by
      rw [hone]
      exact fun h => nomatch h.2
    show execDepth s = _
    rw [execDepth, if_neg (State.not_stopped hr hc), if_neg hcounting, hdue]
    exact congrArg Host.Outcome.next (if_pos hended)
  · rw [hfinal]
    exact hwhy

/-! ## ABORT -/

/-- The link is none of an announcement's concern. -/
theorem State.announce_withLink (s : State) (l : LinkController) (q : Nat) :
    (s.withLink l).announce q = (s.announce q).withLink l := by
  unfold State.announce State.announceToReadout
  dsimp only [State.withLink, State.withColumns]
  split
  · split <;> rfl
  all_goals rfl

/-- The link is none of the store's concern. -/
theorem State.place_withLink (s : State) (l : LinkController) (r : Record) :
    (s.withLink l).place r = (s.place r).map (fun u => u.withLink l) := by
  by_cases hfree : s.store.records.length < 65536
  · rw [State.place_free s r hfree]
    exact State.place_free (s.withLink l) r hfree
  have hfull := Nat.not_lt.1 hfree
  by_cases hgives : s.store.mayOverwrite = true
  · rw [State.place_overwrites hfull hgives]
    exact (State.place_overwrites (s := s.withLink l) hfull hgives r).trans 
      (congrArg some (State.announce_withLink (s.withStore (s.store.dropOldest.append r)) l s.store.oldest))
  · rw [State.place_full_refuses hfull hgives]
    exact State.place_full_refuses (s := s.withLink l) hfull hgives r

/-- The link is none of a capture end's concern. -/
theorem State.endCapture_withLink (s : State) (l : LinkController) {w : Reason} (hw : w ≠ .storeLimit) :
    (s.withLink l).endCapture w = (s.endCapture w).withLink l := by
  have hclose : (s.withLink l).closeLastRun w = ((s.closeLastRun w).1.withLink l, (s.closeLastRun w).2) := by
    cases hrun : s.sampler.openRun with
    | none =>
      rw [State.closeLastRun_none hw hrun]
      exact State.closeLastRun_none (s := s.withLink l) hw hrun
    | some r =>
      have hplace := State.place_withLink s l (.run r)
      cases hp : s.place (.run r) with
      | none =>
        rw [hp] at hplace
        rw [State.closeLastRun_refused hw hrun hp]
        exact State.closeLastRun_refused (s := s.withLink l) hw hrun hplace
      | some u =>
        rw [hp] at hplace
        rw [State.closeLastRun_placed hw hrun hp]
        exact State.closeLastRun_placed (s := s.withLink l) hw hrun hplace
  rw [State.endCapture, hclose]
  rfl

/-- The state that a taken ABORT leaves (R49, R132). -/
theorem State.takeOrder_abort {s : State} {o : OrderPost} (h : s.orderReady o) (hl : o.params.length = 0)
    (hc : s.capturing = true) :
    s.takeOrder 0x0A o (o.params.length == 0) judgeAbort =
      { s.endCapture .aborted with
        link := s.heardLink
        streamer := s.streamer.discard s.time.elapsed
        orders := { s.orders with
          answers := s.answersWith o 0x0A .ok 0 [] false
          notices := (s.orders.notices.setDone (s.endCapture .aborted).capture.reason).withLoss
            (s.streamer.queue.drop s.streamer.inFlight ≠ []) } } := by
  have hj : judgeAbort { s with link := s.heardLink }
      = ((State.endCapture { s with link := s.heardLink } .aborted).discardQueue).ok := if_pos hc
  have hlink : State.endCapture { s with link := s.heardLink } .aborted = (s.endCapture .aborted).withLink s.heardLink :=
    State.endCapture_withLink s s.heardLink (by decide)
  have horders : (s.endCapture .aborted).orders
      = { s.orders with notices := s.orders.notices.setDone (s.endCapture .aborted).capture.reason } :=
    (s.endCapture_ended (by decide)).orders
  rw [State.takeOrder_taken h _ (beq_iff_eq.2 hl), hj, hlink, Judged.settle_eq, State.discardQueue_eq,
    ← Streamer.discardRemoves_notices]
  simp only [State.ok, State.answersWith, State.withLink_streamer, State.withLink_orders, State.withLink_time,
    State.endCapture_streamer, State.endCapture_time, horders]
  cases s.streamer.discardRemoves <;> rfl

/-- Settles O21, by the capture end and the discard that an ABORT brings. -/
theorem abortEndsTheCapture : Obligations.AbortEndsTheCapture := by
  intro o s h hl
  refine ⟨fun hidle => ?_, fun hc => ?_⟩
  · exact State.takeOrder_refuses (judge := judgeAbort) h _ (beq_iff_eq.2 hl) (if_neg (State.heard_idle hidle))
  have hend : CaptureEnded s .aborted (s.endCapture .aborted) := s.endCapture_ended (by decide)
  have hfree (r : Run) (hr : s.sampler.openRun = some r) (hlen : s.store.records.length < 65536) :
      (s.endCapture .aborted).store.records = s.store.records ++ [.run r] := by
    obtain ⟨-, hstore, -⟩ := hend.placed r _ hr (State.place_free s (.run r) hlen)
    exact congrArg Store.records hstore
  have hreason : s.sampler.openRun = none ∨ s.store.records.length < 65536 →
      (s.endCapture .aborted).capture.reason = .aborted := by
    rintro (hnone | hlen)
    · obtain ⟨hreason, -⟩ := hend.noRun hnone
      exact hreason
    · rw [State.endCapture_capture]
      exact s.closeLastRun_reason_free .aborted hlen
  have hmay : (s.endCapture .aborted).capture.reason = .aborted ∨ (s.endCapture .aborted).capture.reason = .storeLimit := by
    rw [State.endCapture_capture]
    exact s.closeLastRun_reason .aborted
  have hstore : (s.endCapture .aborted).store.placement = [] ∧ (s.endCapture .aborted).store.trigger = s.store.trigger
      ∧ (s.endCapture .aborted).store.floor = s.store.floor := by
    rw [State.endCapture_store]
    exact ⟨rfl, s.closeLastRun_trigger .aborted, s.closeLastRun_floor .aborted⟩
  obtain ⟨hplacement, htrigger, hfloor⟩ := hstore
  refine ⟨_, congrArg Host.Outcome.next (State.takeOrder_abort h hl hc), hend.capture, hmay, hreason, hfree, fun hnone => ?_,
    hend.refused, hend.placed, hplacement, htrigger, hfloor, hend.sampler, hend.decoders, hend.copySet, hend.counters,
    State.discarded_of_streamer rfl, rfl, s.endCapture_seq .aborted, rfl, s.endCapture_time .aborted, s.endCapture_pfe .aborted,
    s.endCapture_resetHeld .aborted, s.endCapture_freeDraws .aborted, s.endCapture_pending .aborted⟩
  obtain ⟨-, hclosed⟩ := hend.noRun hnone
  exact hclosed

end Sys2Proof.Machine

/-! SUPPORT. What an ARM and a STANDBY leave. -/

namespace Sys2Proof.Machine

/-! ## ARM -/

/-- What a taken ARM leaves does not depend on the link (R43). -/
theorem ArmTaken.ofLink {s t : State} {l : LinkController} (h : ArmTaken (s.withLink l) t) : ArmTaken s t := by
  obtain ⟨h1, h2, h3, h4, h5, h6, h7, h8, h9, ⟨h10, h11, h12⟩, h13, h14, h15⟩ := h
  exact ⟨h1, h2, h3, h4, h5, h6, h7, h8, h9, ⟨h10, h11, h12⟩, h13, h14, h15⟩

/-! The three verdicts on an ARM outside a capture (R41). -/

theorem judgeArm_busy {s : State} (o : OrderPost) (hc : ¬s.capturing = true) (hload : s.seq.load.isSome = true) :
    judgeArm o s = s.refuse .busy := by
  rw [judgeArm, if_neg hc, if_pos hload]

theorem judgeArm_conflict {s : State} (o : OrderPost) (hc : ¬s.capturing = true) (hload : s.seq.load = none) {i : Nat}
    (hi : s.armConflict = some i) : judgeArm o s = { state := s, status := .conflict, index := i } := by
  have hno : ¬s.seq.load.isSome = true := by rw [hload]; decide
  rw [judgeArm, if_neg hc, if_neg hno, hi]

theorem judgeArm_taken {s : State} (o : OrderPost) (hc : ¬s.capturing = true) (hload : s.seq.load = none)
    (hi : s.armConflict = none) : judgeArm o s = (s.armEffects.setReportStation o.sender).ok := by
  have hno : ¬s.seq.load.isSome = true := by rw [hload]; decide
  rw [judgeArm, if_neg hc, if_neg hno, hi]

/-- The state that a taken ARM leaves (R43). -/
theorem State.takeOrder_arm {s : State} {o : OrderPost} (h : s.orderReady o) (hl : o.params.length = 0)
    (hc : s.capturing = false) (hload : s.seq.load = none) (hi : s.armConflict = none) :
    s.takeOrder 0x08 o (o.params.length == 0) (judgeArm o) =
      (s.withLink s.heardLink).armEffects.withOrders
        { s.orders with
          answers := s.answersWith o 0x08 .ok 0 [] false
          reportStation := some o.sender
          notices := s.orders.notices.withLoss (s.streamer.queue.drop s.streamer.inFlight ≠ []) } := by
  have hj : judgeArm o (s.withLink s.heardLink)
      = ((s.withLink s.heardLink).armEffects.setReportStation o.sender).ok :=
    judgeArm_taken o (State.heard_idle hc) hload hi
  have horders := (s.withLink s.heardLink).armEffects_notices
  refine (State.takeOrder_taken h _ (beq_iff_eq.2 hl) (judgeArm o)).trans ?_
  refine (congrArg (fun j => Judged.settle j 0x08 o) hj).trans ?_
  generalize (s.withLink s.heardLink).armEffects = t at horders ⊢
  rw [Judged.settle_eq]
  simp only [State.ok, State.setReportStation, State.answersWith, State.withOrders_orders, horders]
  rfl

/-- Settles O19, by the load and the first failing check. -/
theorem armJudged : Obligations.ArmJudged := by
  intro o s h hl hc
  have hfits : (o.params.length == 0) = true := beq_iff_eq.2 hl
  have hc' : ¬(s.withLink s.heardLink).capturing = true := State.heard_idle hc
  refine ⟨fun hload => ?_, fun i hload hi => ?_, s.armConflict_eq_some, fun hload hi => ?_⟩
  · exact State.takeOrder_refuses h _ hfits (judgeArm_busy o hc' hload)
  · have hj := judgeArm_conflict (s := s.withLink s.heardLink) o hc' hload hi
    refine congrArg Host.Outcome.next ((State.takeOrder_taken h _ hfits _).trans ?_)
    exact (congrArg (fun j => Judged.settle j 0x08 o) hj).trans (Judged.settle_eq _ _ _)
  · let heard := s.withLink s.heardLink
    refine ⟨_, congrArg Host.Outcome.next (State.takeOrder_arm h hl hc hload hi),
      (heard.armEffects_taken.withOrders _).ofLink, rfl, heard.armEffects_link, heard.armEffects_time,
      heard.armEffects_pfe, heard.armEffects_resetHeld, heard.armEffects_pending⟩

/-! ## STANDBY -/

/-- A byte of a wake set names a member (R170). -/
def namesMember (b : Byte) (m : WakeMember) : Prop := m.ch.val = b.toNat % 64 ∧ edgeOfCode (b.toNat / 64) = some m.edge

theorem wakeMemberOf_eq_some {b : Byte} {m : WakeMember} : wakeMemberOf b = some m ↔ namesMember b m := by
  obtain ⟨hbits, hchan, -, -⟩ := qualifierByte_bits b
  have hedge : bitsOf b 6 2 = b.toNat / 64 := by
    have hb : b.toNat < 256 := b.isLt
    unfold bitsOf
    omega
  unfold wakeMemberOf namesMember
  simp only [hedge, Option.bind_eq_bind, Option.bind_eq_some_iff]
  constructor
  · rintro ⟨edge, he, h⟩
    split at h
    swap
    · rw [Option.bind_none] at h
      cases h
    rename_i hzero
    obtain ⟨ch, hch, h⟩ := Option.bind_eq_some_iff.1 h
    cases h
    have hval := channelOf_eq_some.1 hch
    have hsmall := hbits.1 ⟨hzero, by rw [← hval]; exact ch.isLt⟩
    exact ⟨hval.trans (hchan hsmall), he⟩
  · rintro ⟨hval, he⟩
    have hsmall : b.toNat % 64 < 16 := by rw [← hval]; exact m.ch.isLt
    obtain ⟨hzero, -⟩ := hbits.2 hsmall
    have hch : channelOf (bitsOf b 0 5) = some m.ch := by rw [channelOf_eq_some, hval, hchan hsmall]
    refine ⟨m.edge, he, ?_⟩
    rw [if_pos hzero, hch, Option.bind_some]

/-- The bytes of a wake set that hold members name each channel once, and give the members in their order (R52). -/
theorem wakeMembersOf_eq_some {bytes : List Byte} {ms : List WakeMember} :
    wakeMembersOf bytes = some ms ↔
      List.Forall₂ namesMember bytes ms ∧ (ms.map (fun m => m.ch)).Nodup := by
  induction bytes generalizing ms with
  | nil =>
    rw [List.forall₂_nil_left_iff]
    constructor
    · rintro h
      cases h
      exact ⟨rfl, List.nodup_nil⟩
    · rintro ⟨rfl, -⟩
      rfl
  | cons b rest ih =>
    simp only [wakeMembersOf, Option.bind_eq_bind, Option.bind_eq_some_iff, wakeMemberOf_eq_some, ih,
      List.forall₂_cons_left_iff]
    constructor
    · rintro ⟨m, hm, ms', ⟨hrest, hnodup⟩, h⟩
      split at h
      · cases h
      · rename_i hfresh
        cases h
        refine ⟨⟨m, ms', hm, hrest, rfl⟩, List.nodup_cons.2 ⟨?_, hnodup⟩⟩
        simpa using hfresh
    · rintro ⟨⟨m, ms', hm, hrest, rfl⟩, hnodup⟩
      obtain ⟨hfresh, hnodup'⟩ := List.nodup_cons.1 hnodup
      refine ⟨m, hm, ms', ⟨hrest, hnodup'⟩, if_neg ?_⟩
      simpa using hfresh

/-- The bytes that name a member (R52). -/
theorem exists_namesMember {b : Byte} : (∃ m, namesMember b m) ↔ b.toNat % 64 < 16 ∧ b.toNat / 64 ≤ 2 := by
  constructor
  · rintro ⟨m, hch, hedge⟩
    exact ⟨by rw [← hch]; exact m.ch.isLt, (edgeOfCode_isSome _).1 (Option.isSome_iff_exists.2 ⟨_, hedge⟩)⟩
  · rintro ⟨hch, hedge⟩
    obtain ⟨edge, he⟩ := Option.isSome_iff_exists.1 ((edgeOfCode_isSome _).2 hedge)
    exact ⟨⟨⟨_, hch⟩, edge⟩, rfl, he⟩

/-- A list has related partners when each of its members has one. -/
theorem exists_forall₂ {α β : Type} {r : α → β → Prop} {l : List α} :
    (∃ l', List.Forall₂ r l l') ↔ ∀ a ∈ l, ∃ b, r a b := by
  induction l with
  | nil => exact ⟨fun _ _ h => absurd h List.not_mem_nil, fun _ => ⟨[], .nil⟩⟩
  | cons a rest ih =>
    rw [List.forall_mem_cons, ← ih]
    constructor
    · rintro ⟨_, hab | ⟨hab, hrest⟩⟩
      exact ⟨⟨_, hab⟩, _, hrest⟩
    · rintro ⟨⟨b, hab⟩, l', hrest⟩
      exact ⟨b :: l', .cons hab hrest⟩

/-- The channels and the edges of members are those that their bytes name (R170). -/
theorem namesMember_maps {bytes : List Byte} {ms : List WakeMember} (h : List.Forall₂ namesMember bytes ms) :
    ms.map (fun m => m.ch.val) = bytes.map (fun b => b.toNat % 64)
      ∧ ms.map (fun m => some m.edge) = bytes.map (fun b => edgeOfCode (b.toNat / 64)) := by
  induction h with
  | nil => exact ⟨rfl, rfl⟩
  | cons hb _ ih =>
    obtain ⟨hch, hedge⟩ := hb
    obtain ⟨hchs, hedges⟩ := ih
    simp only [List.map_cons, hch, hedge, hchs, hedges, and_self]

/-- Channels are named once when their numbers are. -/
theorem nodup_channels_iff {bytes : List Byte} {ms : List WakeMember} (h : List.Forall₂ namesMember bytes ms) :
    (ms.map (fun m => m.ch)).Nodup ↔ (bytes.map (fun b => b.toNat % 64)).Nodup := by
  obtain ⟨hchs, -⟩ := namesMember_maps h
  rw [← hchs, ← List.nodup_map_iff Fin.val_injective, List.map_map]
  rfl

/-- Action 0 is no ARM, action 1 is ARM (R52). -/
theorem levelOf_eq_some {n : Nat} {b : Bool} : levelOf n = some b ↔ n ≤ 1 ∧ b = decide (n = 1) := by
  match n with
  | 0 | 1 => simp [levelOf, eq_comm]
  | n + 2 => simp [levelOf]

/-- What a STANDBY gives is what its bytes hold (R52, R170). -/
theorem standbyOf_eq_some {o : OrderPost} {x : StandbyOrder} :
    standbyOf o = some x ↔ (paramNat o 2 ≤ 1 ∧ x.wakeArm = decide (paramNat o 2 = 1))
      ∧ List.Forall₂ namesMember (o.params.drop 2) x.members ∧ (x.members.map (fun m => m.ch)).Nodup := by
  simp only [standbyOf, Option.bind_eq_bind, Option.bind_eq_some_iff, levelOf_eq_some, wakeMembersOf_eq_some]
  constructor
  · rintro ⟨_, haction, _, hmembers, h⟩
    cases h
    exact ⟨haction, hmembers⟩
  · rintro ⟨haction, hmembers⟩
    exact ⟨_, haction, _, hmembers, rfl⟩

/-- A STANDBY fits when its bytes give an action and a wake set (R52). -/
theorem standbyFits_iff {o : OrderPost} : standbyFits o ↔ ∃ x, standbyOf o = some x := by
  simp only [standbyFits, ← exists_namesMember, ← exists_forall₂, standbyOf_eq_some]
  constructor
  · rintro ⟨haction, ⟨ms, hms⟩, hnodup⟩
    exact ⟨⟨_, ms⟩, ⟨haction, rfl⟩, hms, (nodup_channels_iff hms).2 hnodup⟩
  · rintro ⟨x, ⟨haction, -⟩, hms, hnodup⟩
    exact ⟨haction, ⟨_, hms⟩, (nodup_channels_iff hms).1 hnodup⟩

/-! The verdicts on a STANDBY, in the order of their causes (R52). -/

theorem judgeStandby_range {o : OrderPost} (s : State) (hn : 16 < paramNat o 3) : judgeStandby o s = s.refuse .range :=
  if_pos hn

theorem judgeStandby_length {o : OrderPost} (s : State) (hn : paramNat o 3 ≤ 16) (hl : o.params.length ≠ 2 + paramNat o 3) :
    judgeStandby o s = s.refuse .length := by
  rw [judgeStandby, if_neg (Nat.not_lt.2 hn), if_pos hl]

theorem judgeStandby_unfit {o : OrderPost} {s : State} (hc : ¬s.capturing = true) (hn : paramNat o 3 ≤ 16)
    (hl : o.params.length = 2 + paramNat o 3) (hx : standbyOf o = none) : judgeStandby o s = s.refuse .range := by
  rw [judgeStandby, if_neg (Nat.not_lt.2 hn), if_neg (fun h => h hl), if_neg hc, hx]

theorem judgeStandby_taken {o : OrderPost} {s : State} (hc : ¬s.capturing = true) (hn : paramNat o 3 ≤ 16)
    (hl : o.params.length = 2 + paramNat o 3) {x : StandbyOrder} (hx : standbyOf o = some x) :
    judgeStandby o s = (s.enterStandby x).ok := by
  rw [judgeStandby, if_neg (Nat.not_lt.2 hn), if_neg (fun h => h hl), if_neg hc, hx]

/-- Settles O22, by the member count, the length, and the bytes. -/
theorem standbyTaken : Obligations.StandbyTaken := by
  intro o s h
  have longEnough (hl : o.params.length = 2 + paramNat o 3) : decide (2 ≤ o.params.length) = true :=
    decide_eq_true (hl ▸ Nat.le_add_right _ _)
  refine ⟨fun hshort => ?_, fun hlong hn => ?_, fun hlong hn hl => ?_, fun hc hn hl hno => ?_, fun hc hn hl hfits => ?_⟩
  · have hfits : decide (2 ≤ o.params.length) = false := decide_eq_false (Nat.not_le.2 hshort)
    refine congrArg Host.Outcome.next ?_
    rw [hfits]
    exact State.takeOrder_length h _ _
  · exact State.takeOrder_refuses h _ (decide_eq_true hlong) (judgeStandby_range _ hn)
  · exact State.takeOrder_refuses h _ (decide_eq_true hlong) (judgeStandby_length _ hn hl)
  · exact State.takeOrder_refuses h _ (longEnough hl)
      (judgeStandby_unfit (State.heard_idle hc) hn hl
        (Option.eq_none_iff_forall_ne_some.2 (fun x hx => hno (standbyFits_iff.2 ⟨x, hx⟩))))
  · obtain ⟨x, hx⟩ := standbyFits_iff.1 hfits
    obtain ⟨⟨-, haction⟩, hmembers, -⟩ := standbyOf_eq_some.1 hx
    obtain ⟨hchs, hedges⟩ := namesMember_maps hmembers
    refine ⟨_, congrArg Host.Outcome.next (State.takeOrder_taken h _ (longEnough hl) _), ?_⟩
    rw [judgeStandby_taken (State.heard_idle hc) hn hl hx, Judged.settle_eq]
    refine ⟨?_, hchs, hedges⟩
    rw [← haction]
    rfl

end Sys2Proof.Machine

/-! SUPPORT. What a SET_COUNTER writes, and what a TICK occurrence does to the Counter Bank. -/

namespace Sys2Proof.Machine

/-! ## What a SET_COUNTER carries -/

theorem counterModeOf_isSome (n : Nat) : (counterModeOf n).isSome = true ↔ n ≤ 4 := by
  match n with
  | 0 | 1 | 2 | 3 | 4 => simp [counterModeOf]
  | n + 5 => simp [counterModeOf]

/-- Counter mode code 4 is CASCADE (R170). -/
theorem counterModeOf_cascade {n : Nat} {m : CounterMode} (h : counterModeOf n = some m) : m = .cascade ↔ n = 4 := by
  match n with
  | 0 | 1 | 2 | 3 | 4 => cases h; decide
  | n + 5 => cases h

theorem counterSourceOf_isSome (n : Nat) : (counterSourceOf n).isSome = true ↔ n ≤ 5 := by
  match n with
  | 0 | 1 | 2 | 3 | 4 | 5 => simp [counterSourceOf]
  | n + 6 => simp [counterSourceOf]

theorem eventKindOf_isSome (n : Nat) : (eventKindOf n).isSome = true ↔ n ≤ 2 := by
  match n with
  | 0 | 1 | 2 => simp [eventKindOf]
  | n + 3 => simp [eventKindOf]

/-- The last byte of a SET_COUNTER: event select in bits 1-0, one-shot in bits 5-4, cascade in bit 7, the others zero (R170). -/
theorem counterByte_bits (b : Byte) :
    bitsOf b 0 2 = b.toNat % 4 ∧ bitsOf b 2 2 = b.toNat / 4 % 4 ∧ bitsOf b 4 2 = b.toNat / 16 % 4
      ∧ bitsOf b 6 1 = b.toNat / 64 % 2 ∧ (bitsOf b 7 1 == 1) = decide (128 ≤ b.toNat) := by
  have hb : b.toNat < 256 := b.isLt
  have hcascade : bitsOf b 7 1 = 1 ↔ 128 ≤ b.toNat := by
    unfold bitsOf
    omega
  have hlow : bitsOf b 0 2 = b.toNat % 4 := by
    unfold bitsOf
    omega
  exact ⟨hlow, rfl, rfl, rfl, Bool.eq_iff_iff.2 (beq_iff_eq.trans (hcascade.trans decide_eq_true_iff.symm))⟩

/-- A counter is the low one of its pair when its number is even (R60). -/
theorem isLow_iff (k : Fin 4) : isLow k = true ↔ k.val % 2 = 0 := beq_iff_eq

/-- The settings are those that the bytes of a SET_COUNTER hold (R59, R170). -/
structure CounterSettingsRead (o : OrderPost) (c : CounterSettings) : Prop where
  mode : counterModeOf (paramNat o 3) = some c.mode
  source : counterSourceOf (paramNat o 4) = some c.source
  sourceChannel : c.sourceChannel.val = paramNat o 5
  sourceEdge : edgeOfCode (paramNat o 6) = some c.sourceEdge
  periodChannel : c.periodChannel.val = paramNat o 7
  periodEdge : edgeOfCode (paramNat o 8) = some c.periodEdge
  reload : c.reload = if paramField o 9 2 = 0 then 65536 else paramField o 9 2
  oneshot : c.oneshot = decide (paramNat o 11 / 16 % 4 = 1)
  select : eventKindOf (paramNat o 11 % 4) = some c.select

/-- What a SET_COUNTER sets is what its bytes hold (R59, R60). -/
structure CounterReads (o : OrderPost) (x : CounterOrder) : Prop where
  k : x.k.val = paramNat o 2
  settings : CounterSettingsRead o x.settings
  cascade : x.cascade = decide (128 ≤ paramNat o 11)

/-- What R59 and R60 ask of the last byte, the mode and the counter together. -/
def counterRules (o : OrderPost) : Prop :=
  paramNat o 11 / 4 % 4 = 0 ∧ paramNat o 11 / 16 % 4 ≤ 1 ∧ paramNat o 11 / 64 % 2 = 0
    ∧ ¬(paramNat o 3 = 4 ∧ paramNat o 2 % 2 = 0) ∧ ¬(128 ≤ paramNat o 11 ∧ paramNat o 2 % 2 = 1)

/-- A SET_COUNTER gives what its bytes hold, when its fields keep the rules (R59, R60). -/
theorem counterOf_eq_some {o : OrderPost} {x : CounterOrder} :
    counterOf o = some x ↔ CounterReads o x ∧ counterRules o := by
  obtain ⟨hselect, hlow, honeshot, hhigh, hcascade⟩ := counterByte_bits (paramByte o 11)
  simp only [counterOf, Option.bind_eq_bind, Option.bind_eq_some_iff, quadIndexOf_eq_some, channelOf_eq_some,
    levelOf_eq_some, Option.ite_none_left_eq_some, hselect, hlow, honeshot, hhigh, hcascade]
  constructor
  · rintro ⟨k, hk, mode, hmode, source, hsource, sch, hsch, sedge, hsedge, pch, hpch, pedge, hpedge, one, ⟨hone, rfl⟩,
      select, hsel, hzero, hnoCascade, hhighHalf, h⟩
    cases h
    obtain ⟨hhighZero, hlowZero⟩ := not_or.1 hzero
    rw [isLow_iff, counterModeOf_cascade hmode, hk] at hnoCascade
    rw [Bool.and_eq_true, Bool.not_eq_true', ← Bool.not_eq_true, isLow_iff, hk, decide_eq_true_eq] at hhighHalf
    refine ⟨⟨hk, ⟨hmode, hsource, hsch, hsedge, hpch, hpedge, rfl, rfl, hsel⟩, rfl⟩, not_not.1 hlowZero, hone,
      not_not.1 hhighZero, fun h => hnoCascade h.symm, fun ⟨hc, hodd⟩ => hhighHalf ⟨?_, hc⟩⟩
    omega
  · rintro ⟨⟨hk, ⟨hmode, hsource, hsch, hsedge, hpch, hpedge, hreload, honeshot, hsel⟩, hcasc⟩, hlowZero, hone,
      hhighZero, hnoCascade, hhighHalf⟩
    refine ⟨x.k, hk, _, hmode, _, hsource, _, hsch, _, hsedge, _, hpch, _, hpedge, _, ⟨hone, rfl⟩, _, hsel,
      not_or.2 ⟨not_not.2 hhighZero, not_not.2 hlowZero⟩, ?_, ?_, ?_⟩
    · rw [isLow_iff, counterModeOf_cascade hmode, hk]
      exact fun h => hnoCascade h.symm
    · rw [Bool.and_eq_true, Bool.not_eq_true', ← Bool.not_eq_true, isLow_iff, hk, decide_eq_true_eq]
      exact fun ⟨hodd, hc⟩ => hhighHalf ⟨hc, by omega⟩
    · rw [paramCount, ← hreload]
      exact congrArg some (congrArg₂ (fun one c => CounterOrder.mk x.k { x.settings with oneshot := one } c)
        honeshot.symm hcasc.symm)

/-- A SET_COUNTER fits when its bytes give a counter with settings (R59, R60). -/
theorem counterFits_iff {o : OrderPost} : counterFits o ↔ ∃ x, counterOf o = some x := by
  simp only [counterOf_eq_some]
  constructor
  · rintro ⟨hk, hmode, hsource, hsch, hsedge, hpch, hpedge, hselect, hrules⟩
    obtain ⟨mode, hmode⟩ := Option.isSome_iff_exists.1 ((counterModeOf_isSome _).2 hmode)
    obtain ⟨source, hsource⟩ := Option.isSome_iff_exists.1 ((counterSourceOf_isSome _).2 hsource)
    obtain ⟨sedge, hsedge⟩ := Option.isSome_iff_exists.1 ((edgeOfCode_isSome _).2 hsedge)
    obtain ⟨pedge, hpedge⟩ := Option.isSome_iff_exists.1 ((edgeOfCode_isSome _).2 hpedge)
    obtain ⟨select, hselect⟩ := Option.isSome_iff_exists.1 ((eventKindOf_isSome _).2 hselect)
    exact ⟨⟨⟨_, hk⟩, ⟨mode, source, ⟨_, hsch⟩, sedge, ⟨_, hpch⟩, pedge, _, _, select⟩, _⟩,
      ⟨rfl, ⟨hmode, hsource, rfl, hsedge, rfl, hpedge, rfl, rfl, hselect⟩, rfl⟩, hrules⟩
  · rintro ⟨x, ⟨hk, ⟨hmode, hsource, hsch, hsedge, hpch, hpedge, -, -, hselect⟩, -⟩, hrules⟩
    exact ⟨hk ▸ x.k.isLt, (counterModeOf_isSome _).1 (Option.isSome_iff_exists.2 ⟨_, hmode⟩),
      (counterSourceOf_isSome _).1 (Option.isSome_iff_exists.2 ⟨_, hsource⟩), hsch ▸ x.settings.sourceChannel.isLt,
      (edgeOfCode_isSome _).1 (Option.isSome_iff_exists.2 ⟨_, hsedge⟩), hpch ▸ x.settings.periodChannel.isLt,
      (edgeOfCode_isSome _).1 (Option.isSome_iff_exists.2 ⟨_, hpedge⟩),
      (eventKindOf_isSome _).1 (Option.isSome_iff_exists.2 ⟨_, hselect⟩), hrules⟩

/-! ## The bank after a SET_COUNTER -/

section Configure
variable (b : CounterBank) (x : CounterOrder)

/-- The cascade settings stand outside the counters, so a SET_COUNTER writes one counter alone (R59). -/
theorem CounterBank.configure_k : (b.configure x).k = (b.update x.k (fun c => c.configure x.settings)).k := by
  unfold CounterBank.configure
  dsimp only
  split <;> rfl

theorem CounterBank.configure_named : (b.configure x).k.get x.k = (b.k.get x.k).configure x.settings := by
  rw [CounterBank.configure_k, CounterBank.update_self]

theorem CounterBank.configure_other {k : Fin 4} (h : k ≠ x.k) : (b.configure x).k.get k = b.k.get k := by
  rw [CounterBank.configure_k, CounterBank.update_ne _ _ h]

/-- Only an order naming a low counter writes the cascade setting of its pair (R60). -/
theorem CounterBank.configure_cascades :
    (b.configure x).cascade01 = (if x.k.val = 0 then x.cascade else b.cascade01)
      ∧ (b.configure x).cascade23 = (if x.k.val = 2 then x.cascade else b.cascade23) := by
  unfold CounterBank.configure
  match x.k with
  | 0 | 1 | 2 | 3 => exact ⟨rfl, rfl⟩

end Configure

/-! The verdicts on a SET_COUNTER outside a capture (R59). -/

theorem judgeSetCounter_unfit {o : OrderPost} {s : State} (hc : ¬s.capturing = true) (hx : counterOf o = none) :
    judgeSetCounter o s = s.refuse .range := by
  rw [judgeSetCounter, if_neg hc, hx]

theorem judgeSetCounter_taken {o : OrderPost} {s : State} (hc : ¬s.capturing = true) {x : CounterOrder}
    (hx : counterOf o = some x) : judgeSetCounter o s = (s.withCounters (s.counters.configure x)).ok := by
  rw [judgeSetCounter, if_neg hc, hx]

/-- Settles O14, by whether the bytes give a counter with settings. -/
theorem setCounterTaken : Obligations.SetCounterTaken := by
  intro o s h hl hc
  have hlength : (o.params.length == 10) = true := beq_iff_eq.2 hl
  refine ⟨fun hno => ?_, fun hfits => ?_⟩
  · have hnone : counterOf o = none :=
      Option.eq_none_iff_forall_ne_some.2 (fun x hx => hno (counterFits_iff.2 ⟨x, hx⟩))
    exact State.takeOrder_refuses h _ hlength (judgeSetCounter_unfit (State.heard_idle hc) hnone)
  · obtain ⟨x, hx⟩ := counterFits_iff.1 hfits
    obtain ⟨⟨hk, ⟨hmode, hsource, hsch, hsedge, hpch, hpedge, hreload, honeshot, hselect⟩, hcascade⟩, -⟩ :=
      counterOf_eq_some.1 hx
    have hbank := s.counters.configure_cascades x
    rw [hcascade, hk] at hbank
    refine ⟨_, congrArg Host.Outcome.next (State.takeOrder_taken h _ hlength _), ?_⟩
    rw [judgeSetCounter_taken (State.heard_idle hc) hx, Judged.settle_eq]
    refine ⟨rfl, fun k hne => ?_, fun k hnamed => ?_, hbank⟩
    · exact s.counters.configure_other x (fun e => hne (e ▸ hk))
    · obtain rfl : k = x.k := Fin.ext (hnamed.trans hk.symm)
      have hcounter := s.counters.configure_named x
      dsimp only [State.ok, State.withCounters]
      rw [hcounter]
      exact ⟨rfl, rfl, rfl, rfl, rfl, rfl, hmode, hsource, hsch, hsedge, hpch, hpedge, hreload, honeshot, hselect⟩

/-! ## TICK occurrences -/

/-- The TICK occurrence of the low counter of a pair counts for both (R61, R68, R69). -/
theorem CounterBank.countTick_pair (b : CounterBank) {tick : Nat} {l h : Fin 4} (p : isPairOf l h) (hb : b.paired l)
    (hm : (b.k.get l).settings.mode = .count ∨ (b.k.get l).settings.mode = .period)
    (ht : (b.k.get l).ticksAt tick = true) :
    PairHandled (b.k.get l) (b.k.get h) ((b.countTick tick l).k.get l) ((b.countTick tick l).k.get h) true false := by
  obtain ⟨-, -, -, -, -, -, -, -, hne⟩ := p.halves
  have hsame : sameSettings (b.update l (fun c => { c with countedTo := tick })) b :=
    (LocalAt.update (k := l) b _ (Or.inl rfl)).same
  have hpair := CounterBank.occurrence_pair _ p ((hsame.paired l).2 hb) (by rw [hsame.1]; exact hm)
  rw [CounterBank.update_self, CounterBank.update_ne _ _ hne.symm] at hpair
  rw [CounterBank.countTick, Counter.tickDue_eq, if_pos ht]
  exact hpair.counted tick _

section TickEvent
variable {s : State} {k : Fin 4} (hr : s.resetHeld = false) (hc : s.capturing = true)
  (ht : (s.counters.k.get k).ticksAt s.time.tick = true)
include hr hc ht

/-- In a capture a counter's TICK occurrence of the tick is due to a command that counts its mode (R61). -/
theorem State.tickCountDue_of {modes : List CounterMode} (hm : (s.counters.k.get k).settings.mode ∈ modes) :
    s.tickCountDue k modes = true := by
  have hdue : (s.counters.k.get k).tickDue s.tick = true := (Counter.tickDue_eq _ _).trans ht
  rw [State.tickCountDue, hr, hc, hdue, List.contains_iff_mem.2 hm]
  rfl

/-- COUNTER_EXPIRY counts a COUNT counter (log 8). -/
theorem exec_counterExpiry (hm : (s.counters.k.get k).settings.mode = .count) :
    exec (.counterExpiry k) s = .next (s.countTickNow k) :=
  congrArg Host.Outcome.next (if_pos (State.tickCountDue_of hr hc ht (by simp [hm])))

/-- COUNTER_OVERFLOW counts a PERIOD or a GATED counter (log 8). -/
theorem exec_counterOverflow
    (hm : (s.counters.k.get k).settings.mode = .period ∨ (s.counters.k.get k).settings.mode = .gated) :
    exec (.counterOverflow k) s = .next (s.countTickNow k) :=
  congrArg Host.Outcome.next (if_pos (State.tickCountDue_of hr hc ht (by simpa using hm)))

end TickEvent

/-- K0 and K2 are the low counters of their pairs (R60). -/
theorem isPairOf_low {k : Fin 4} (h : k = 0 ∨ k = 2) : isPairOf k (partnerOf k) := by
  rcases h with rfl | rfl
  · exact Or.inl ⟨rfl, rfl⟩
  · exact Or.inr ⟨rfl, rfl⟩

/-- Settles O43: both commands count one TICK occurrence, in a counter that stands alone or in a pair. -/
theorem tickCountersExpireAndOverflow : Obligations.TickCountersExpireAndOverflow := by
  refine ⟨CounterBank.handlesWell, CounterBank.restartsWell, CounterBank.stops, ?_⟩
  intro s k i hr hc ht hi
  have hexec : exec i s = .next (s.countTickNow k) := by
    rcases hi with ⟨hm, rfl⟩ | ⟨hm, rfl⟩
    · exact exec_counterExpiry hr hc ht hm
    · exact exec_counterOverflow hr hc ht hm
  obtain ⟨hothers, -, hcascades⟩ := LocalAt.countTick s.counters s.time.tick k
  obtain ⟨h01, h23⟩ := hcascades
  refine ⟨_, hexec, rfl, h01, h23, hothers, fun halone => ?_, fun hpaired hlow hgated => ?_⟩
  · obtain ⟨hown, hpartner⟩ := s.counters.countTick_alone s.time.tick k halone
    rw [if_pos ht] at hown
    rw [ht, Bool.true_and] at hpartner
    exact ⟨hown, hpartner⟩
  · have hmode : (s.counters.k.get k).settings.mode = .count ∨ (s.counters.k.get k).settings.mode = .period := by
      rcases hi with ⟨hm, -⟩ | ⟨hm | hm, -⟩
      · exact Or.inl hm
      · exact Or.inr hm
      · exact absurd hm hgated
    exact s.counters.countTick_pair (isPairOf_low hlow) hpaired hmode ht

end Sys2Proof.Machine

/-! SUPPORT. The program load: what LOAD_BEGIN and LOAD_PART are answered, and what each leaves of the load. -/

namespace Sys2Proof.Machine

/-! ## LOAD_BEGIN out of a capture -/

/-- The total and the stage count of a LOAD_BEGIN are ones that R92 takes. -/
def loadFits (o : OrderPost) : Prop :=
  4 ≤ paramNat o 2 ∧ paramNat o 2 ≤ 200 ∧ 1 ≤ paramNat o 3 ∧ paramNat o 3 ≤ 8

section Begin
variable {o : OrderPost} {s : State} (hc : ¬s.capturing = true)
include hc

theorem judgeLoadBegin_unfit (h : ¬loadFits o) : judgeLoadBegin o s = s.refuse .range := by
  unfold loadFits at h
  unfold judgeLoadBegin
  dsimp only
  rw [if_neg hc, if_pos (by omega)]

/-- A load of another station stands in the way (R92). -/
theorem judgeLoadBegin_busy (h : loadFits o) {l : Load} (hload : s.seq.load = some l) (hown : l.owner ≠ o.sender) :
    judgeLoadBegin o s = s.refuse .busy := by
  unfold loadFits at h
  unfold judgeLoadBegin
  dsimp only
  rw [if_neg hc, if_neg (by omega), hload, if_pos (by simpa using hown)]

/-- No other station's load stands in the way, so the load starts or starts again (R92, R94). -/
theorem judgeLoadBegin_taken (h : loadFits o) (hload : ∀ l, s.seq.load = some l → l.owner = o.sender) :
    judgeLoadBegin o s =
      (s.withLoad (some ⟨o.sender, paramNat o 2, paramNat o 3, []⟩) (some s.loadDeadline)).ok := by
  have hfree : ¬s.seq.load.any (fun l => l.owner != o.sender) = true := by
    simpa [Option.any_eq_true] using hload
  unfold loadFits at h
  unfold judgeLoadBegin
  dsimp only
  rw [if_neg hc, if_neg (by omega), if_neg hfree]

end Begin

/-! ## LOAD_PART from the owner of the load -/

/-- The payload of a LOAD_PART holds as many bytes as its count names (R93). -/
def partFits (o : OrderPost) : Prop := o.params.length = 2 + paramNat o 3

/-- The count of a LOAD_PART is one that R93 takes, and the load has room for it. -/
def partInRange (o : OrderPost) (l : Load) : Prop :=
  1 ≤ paramNat o 3 ∧ paramNat o 3 ≤ 120 ∧ l.staged.length + paramNat o 3 ≤ l.total

/-- The staged bytes with those of a LOAD_PART. -/
def Load.grown (l : Load) (o : OrderPost) : List Byte := l.staged ++ o.params.drop 2

section Part
variable {o : OrderPost} {s : State} {l : Load}

theorem judgeLoadPart_noLoad (hload : s.seq.load = none) : judgeLoadPart o s = s.refuse .sequence := by
  rw [judgeLoadPart, hload]

theorem judgeLoadPart_foreign (hload : s.seq.load = some l) (hown : l.owner ≠ o.sender) :
    judgeLoadPart o s = s.refuse .busy := by
  rw [judgeLoadPart, hload]
  exact if_pos hown

theorem judgeLoadPart_owner (hload : s.seq.load = some l) (hown : l.owner = o.sender) :
    judgeLoadPart o s = s.loadPart o l := by
  rw [judgeLoadPart, hload]
  exact if_neg (not_not.2 hown)

theorem partFits_iff (hlong : 2 ≤ o.params.length) : (o.params.drop 2).length = paramNat o 3 ↔ partFits o := by
  rw [List.length_drop, partFits]
  omega

theorem partFits.long (h : partFits o) : 2 ≤ o.params.length := h ▸ Nat.le_add_right _ _

theorem State.loadPart_length (hlong : 2 ≤ o.params.length) (h : ¬partFits o) :
    s.loadPart o l = s.abandonLoad.refuse .length :=
  if_pos (fun hlen => h ((partFits_iff hlong).1 hlen))

/-- A LOAD_PART of the right length is judged on its count next (R93). -/
theorem State.loadPart_fits (h : partFits o) :
    s.loadPart o l =
      if paramNat o 3 < 1 ∨ 120 < paramNat o 3 ∨ l.total < l.staged.length + paramNat o 3 then
        s.abandonLoad.refuse .range
      else if paramNat o 2 ≠ l.staged.length then s.abandonLoad.refuse .sequence
      else if l.staged.length + paramNat o 3 < l.total then
        (s.withLoad (some { l with staged := l.grown o }) (some s.loadDeadline)).ok
      else s.finishLoad l (l.grown o) :=
  if_neg (not_not.2 ((partFits_iff h.long).2 h))

theorem State.loadPart_range (h : partFits o) (hr : ¬partInRange o l) :
    s.loadPart o l = s.abandonLoad.refuse .range := by
  unfold partInRange at hr
  rw [State.loadPart_fits h, if_pos (by omega)]

theorem State.loadPart_sequence (h : partFits o) (hr : partInRange o l) (hoff : paramNat o 2 ≠ l.staged.length) :
    s.loadPart o l = s.abandonLoad.refuse .sequence := by
  unfold partInRange at hr
  rw [State.loadPart_fits h, if_neg (by omega), if_pos hoff]

theorem State.loadPart_goesOn (h : partFits o) (hr : partInRange o l) (hoff : paramNat o 2 = l.staged.length)
    (hmore : l.staged.length + paramNat o 3 < l.total) :
    s.loadPart o l = (s.withLoad (some { l with staged := l.grown o }) (some s.loadDeadline)).ok := by
  unfold partInRange at hr
  rw [State.loadPart_fits h, if_neg (by omega), if_neg (not_not.2 hoff), if_pos hmore]

theorem State.loadPart_finishes (h : partFits o) (hr : partInRange o l) (hoff : paramNat o 2 = l.staged.length)
    (hlast : l.staged.length + paramNat o 3 = l.total) : s.loadPart o l = s.finishLoad l (l.grown o) := by
  unfold partInRange at hr
  rw [State.loadPart_fits h, if_neg (by omega), if_neg (not_not.2 hoff), if_neg (by omega)]

end Part

/-- A LOAD_PART whose verdict ends the load leaves the node without one, its timer stopped, and the verdict answered
(R93, R95, R96). -/
theorem exec_loadPart_abandons {o : OrderPost} {s : State} {l : Load} (h : s.orderReady o)
    (hlong : 2 ≤ o.params.length) (hload : s.seq.load = some l) (hown : l.owner = o.sender) {why : Status} {index : Nat}
    (hj : State.loadPart { s with link := s.heardLink } o l
      = { state := State.abandonLoad { s with link := s.heardLink }, status := why, index := index }) :
    exec (.loadPart o) s =
      .next { s with
        seq := { s.seq with load := none }
        link := s.heardLink
        orders := { s.ordersWith o 0x07 why index with loadTimer := none } } := by
  refine congrArg Host.Outcome.next ?_
  rw [State.takeOrder_taken h _ (decide_eq_true hlong),
    judgeLoadPart_owner (s := { s with link := s.heardLink }) hload hown, hj, Judged.settle_eq]
  rfl

/-- Settles O16, by the verdict of R92 on the LOAD_BEGIN, and by the part that the load still waits for. -/
theorem loadBeginAndPartTaken : Obligations.LoadBeginAndPartTaken := by
  intro o s h
  refine ⟨fun hl hc hbad => ?_, fun l hl hc h2 h3 h4 h5 hload hown => ?_, fun hl hc h2 h3 h4 h5 hload => ?_,
    fun l hload hown hfits h1 h2 hoff hmore => ?_⟩
  · have hunfit : ¬loadFits o := by
      unfold loadFits
      omega
    exact State.takeOrder_refuses h _ (beq_iff_eq.2 hl) (judgeLoadBegin_unfit (State.heard_idle hc) hunfit)
  · exact State.takeOrder_refuses h _ (beq_iff_eq.2 hl)
      (judgeLoadBegin_busy (State.heard_idle hc) ⟨h2, h3, h4, h5⟩ hload hown)
  · refine congrArg Host.Outcome.next ?_
    rw [State.takeOrder_taken h _ (beq_iff_eq.2 hl),
      judgeLoadBegin_taken (State.heard_idle hc) ⟨h2, h3, h4, h5⟩ hload, Judged.settle_eq]
    rfl
  · have hpart : partFits o := hfits
    refine congrArg Host.Outcome.next ?_
    rw [State.takeOrder_taken h _ (decide_eq_true hpart.long),
      judgeLoadPart_owner (s := { s with link := s.heardLink }) hload hown,
      State.loadPart_goesOn hpart ⟨h1, h2, hmore.le⟩ hoff hmore, Judged.settle_eq]
    rfl

/-- Settles O18, in the order of R93's causes. -/
theorem loadPartRefusals : Obligations.LoadPartRefusals := by
  refine ⟨fun o s h hshort => ?_, fun o s h hlong => ?_⟩
  · have hfits : decide (2 ≤ o.params.length) = false := decide_eq_false (Nat.not_le.2 hshort)
    refine congrArg Host.Outcome.next ?_
    rw [hfits]
    exact State.takeOrder_length h _ _
  · refine ⟨fun hnone => ?_, fun l hload => ⟨fun hother => ?_, fun why hown hwhy => ?_⟩⟩
    · exact State.takeOrder_refuses h _ (decide_eq_true hlong) (judgeLoadPart_noLoad hnone)
    · exact State.takeOrder_refuses h _ (decide_eq_true hlong) (judgeLoadPart_foreign hload hother)
    · refine exec_loadPart_abandons h hlong hload hown ?_
      rcases hwhy with ⟨hlen, rfl⟩ | ⟨hlen, hrange, rfl⟩ | ⟨hlen, h1, h2, h3, hoff, rfl⟩
      · exact State.loadPart_length hlong hlen
      · have hout : ¬partInRange o l := by
          unfold partInRange
          omega
        exact State.loadPart_range hlen hout
      · exact State.loadPart_sequence hlen ⟨h1, h2, h3⟩ hoff

end Sys2Proof.Machine

/-! SUPPORT. Reading a program image: each reader finds what the layout of R170 says, at the front of its bytes. -/

namespace Sys2Proof.Machine

/-! ## Fields of bytes -/

theorem word16_toNat (hi lo : Byte) : (word16 hi lo).toNat = pairOf hi lo := by
  have hlo : lo.toNat < 2 ^ 8 := lo.isLt
  rw [word16, BitVec.toNat_append, Nat.shiftLeft_eq, pairOf, Nat.mul_comm, ← Nat.two_pow_add_eq_or_of_lt hlo,
    Nat.mul_comm]

/-- A value is the one that two bytes hold. -/
theorem eq_word16_iff {v : BitVec 16} {hi lo : Byte} : v = word16 hi lo ↔ v.toNat = pairOf hi lo := by
  rw [← word16_toNat, BitVec.toNat_inj]

theorem beNat_four (a b c d : Byte) : beNat [a, b, c, d] = pairOf a b * 65536 + pairOf c d := by
  simp only [beNat, List.foldl, pairOf]
  omega

/-- The highest bits of a byte, from bit `lo` on. -/
theorem bitsOf_top (b : Byte) {lo w : Nat} (h : lo + w = 8) : bitsOf b lo w = b.toNat / 2 ^ lo :=
  Nat.mod_eq_of_lt (Nat.div_lt_of_lt_mul (by rw [← Nat.pow_add, h]; exact b.isLt))

theorem bitsOf_low (b : Byte) (w : Nat) : bitsOf b 0 w = b.toNat % 2 ^ w := by
  rw [bitsOf, Nat.pow_zero, Nat.div_one]

/-- One bit of a byte as a flag. -/
theorem bitsOf_flag (b : Byte) (lo : Nat) : (bitsOf b lo 1 == 1) = decide (b.toNat / 2 ^ lo % 2 = 1) := rfl

theorem bitsOf_flag_low (b : Byte) : (bitsOf b 0 1 == 1) = decide (b.toNat % 2 = 1) := by
  rw [bitsOf_low]
  rfl

/-- The code of an edge direction (R170). -/
def Edge.code : Edge → Nat
  | .rising => 0
  | .falling => 1
  | .either => 2

theorem edgeOfCode_eq_some {n : Nat} {d : Edge} : edgeOfCode n = some d ↔ n = d.code := by
  match n with
  | 0 | 1 | 2 | n + 3 => cases d <;> simp [edgeOfCode, Edge.code]

/-- The code of an error selector (R170). -/
def ErrorSelector.code : ErrorSelector → Nat
  | .any => 0
  | .none => 1
  | .some => 2

theorem errorSelectorOfCode_eq_some {n : Nat} {e : ErrorSelector} : errorSelectorOfCode n = some e ↔ n = e.code := by
  match n with
  | 0 | 1 | 2 | n + 3 => cases e <;> simp [errorSelectorOfCode, ErrorSelector.code]

/-- The code of a combiner (R170). -/
def Combiner.code : Combiner → Nat
  | .a => 0
  | .aAndB => 1
  | .aOrB => 2
  | .aAndNotB => 3

theorem eq_combinerOfCode_iff {n : Nat} (h : n < 4) {c : Combiner} : c = combinerOfCode n ↔ n = c.code := by
  match n, h with
  | 0, _ | 1, _ | 2, _ | 3, _ => cases c <;> simp [combinerOfCode, Combiner.code]

/-! ## Readers -/

/-! ### Conditions -/

/-- The kind of a condition stands in the top three bits of its first byte (R170). -/
theorem conditionKind_eq (b : Byte) : bitsOf b 5 3 = b.toNat / 32 := bitsOf_top b rfl

/-- The counter or slot of a condition stands in the lowest two bits of its first byte (R170). -/
theorem eq_fin4_bits_iff {b : Byte} {k : Fin 4} : k = fin4 (bitsOf b 0 2) ↔ k.val = b.toNat % 4 := by
  rw [Fin.ext_iff, bitsOf_low]
  show k.val = b.toNat % 2 ^ 2 % 4 ↔ _
  omega

/-- The channel of an EDGE condition stands in the lowest four bits of its second byte (R170). -/
theorem eq_fin16_bits_iff {e : Byte} {ch : Fin 16} : ch = fin16 (bitsOf e 0 4) ↔ ch.val = e.toNat % 16 := by
  rw [Fin.ext_iff, bitsOf_low]
  show ch.val = e.toNat % 2 ^ 4 % 16 ↔ _
  omega

/-- What is read as a condition is laid out at the front of the bytes (R78, R170). -/
theorem laidOut_of_parseCondition {bytes rest : List Byte} {c : Condition} (h : parseCondition bytes = some (c, rest)) :
    ∃ one, bytes = one ++ rest ∧ c.laidOut one := by
  match bytes with
  | [] => cases h
  | b :: tail =>
    simp only [parseCondition] at h
    split at h
    next hk =>
      cases h
      exact ⟨[b], rfl, b, rfl, conditionKind_eq b ▸ hk⟩
    next hk =>
      split at h
      next v1 v0 m1 m0 h1 h0 _ =>
        cases h
        exact ⟨[b, v1, v0, m1, m0, h1, h0], rfl, b, v1, v0, m1, m0, h1, h0, rfl, conditionKind_eq b ▸ hk,
          word16_toNat _ _, word16_toNat _ _, congrArg (· + 1) (word16_toNat _ _)⟩
      next => cases h
    next hk =>
      split at h
      next e _ =>
        obtain ⟨d, hd, hc⟩ := Option.map_eq_some_iff.1 h
        cases hc
        refine ⟨[b, e], rfl, b, e, rfl, conditionKind_eq b ▸ hk, eq_fin16_bits_iff.1 rfl, ?_⟩
        cases d <;> exact edgeOfCode_eq_some.1 hd
      next => cases h
    next hk =>
      split at h
      next k v1 v0 m1 m0 _ =>
        split at h
        next kind sel hkind hsel =>
          cases h
          rw [bitsOf_low] at hsel
          refine ⟨[b, k, v1, v0, m1, m0], rfl, b, k, v1, v0, m1, m0, rfl, conditionKind_eq b ▸ hk, eq_fin4_bits_iff.1 rfl,
            ?_, ?_, word16_toNat _ _, word16_toNat _ _⟩
          · cases kind <;> exact recKindOfCode_eq_some.1 hkind
          · cases sel <;> exact errorSelectorOfCode_eq_some.1 hsel
        next => cases h
      next => cases h
    next hk =>
      split at h
      next hnone =>
        cases h
        exact ⟨[b], rfl, b, [], rfl, conditionKind_eq b ▸ hk, eq_fin4_bits_iff.1 rfl, hnone, rfl⟩
      next hsome =>
        have hrange : b.toNat / 4 % 2 = 1 := (Nat.mod_two_eq_zero_or_one _).resolve_left hsome
        split at h
        next l3 l2 l1 l0 h3 h2 h1 h0 _ =>
          cases h
          exact ⟨[b, l3, l2, l1, l0, h3, h2, h1, h0], rfl, b, _, rfl, conditionKind_eq b ▸ hk, eq_fin4_bits_iff.1 rfl,
            hrange, l3, l2, l1, l0, h3, h2, h1, h0, rfl, beNat_four _ _ _ _, beNat_four _ _ _ _⟩
        next => cases h
    next hk =>
      split at h
      next f _ =>
        split at h
        next => cases h
        next hf =>
          cases h
          exact ⟨[b, f], rfl, b, f, rfl, conditionKind_eq b ▸ hk, hf, rfl, bitsOf_flag_low b⟩
      next => cases h
    next => cases h

/-- A condition laid out at the front of the bytes is read (R78, R170). -/
theorem parseCondition_of_laidOut {one : List Byte} {c : Condition} (h : c.laidOut one) (rest : List Byte) :
    parseCondition (one ++ rest) = some (c, rest) := by
  cases c with
  | always =>
    obtain ⟨b, rfl, hk⟩ := h
    rw [← conditionKind_eq] at hk
    simp only [List.cons_append, List.nil_append, parseCondition, hk]
  | pattern value mask hold =>
    obtain ⟨b, v1, v0, m1, m0, h1, h0, rfl, hk, hv, hm, rfl⟩ := h
    rw [← conditionKind_eq] at hk
    simp only [List.cons_append, List.nil_append, parseCondition, hk, eq_word16_iff.2 hv, eq_word16_iff.2 hm,
      word16_toNat]
  | edge ch dir =>
    obtain ⟨b, e, rfl, hk, hch, hdir⟩ := h
    rw [← conditionKind_eq] at hk
    have hd : edgeOfCode (bitsOf e 4 2) = some dir := edgeOfCode_eq_some.2 (by cases dir <;> exact hdir)
    simp only [List.cons_append, List.nil_append, parseCondition, hk, hd, Option.map_some, ← eq_fin16_bits_iff.2 hch]
  | decode slot kind value mask errors =>
    obtain ⟨b, k, v1, v0, m1, m0, rfl, hk, hslot, hkind, hsel, hv, hm⟩ := h
    rw [← conditionKind_eq] at hk
    have hkind : recKindOfCode (bitsOf k 2 2) = some kind := recKindOfCode_eq_some.2 (by cases kind <;> exact hkind)
    have hsel : errorSelectorOfCode (bitsOf k 0 2) = some errors :=
      errorSelectorOfCode_eq_some.2 (by rw [bitsOf_low]; cases errors <;> exact hsel)
    simp only [List.cons_append, List.nil_append, parseCondition, hk, hkind, hsel, ← eq_fin4_bits_iff.2 hslot,
      eq_word16_iff.2 hv, eq_word16_iff.2 hm]
  | counter k range =>
    obtain ⟨b, tail, rfl, hk, hslot, hrange⟩ := h
    rw [← conditionKind_eq] at hk
    match range with
    | none =>
      obtain ⟨hbit, rfl⟩ := hrange
      have hbit : bitsOf b 2 1 = 0 := hbit
      simp only [List.cons_append, List.nil_append, parseCondition, hk, hbit, if_true, ← eq_fin4_bits_iff.2 hslot]
    | some (lo, hi) =>
      obtain ⟨hbit, l3, l2, l1, l0, h3, h2, h1, h0, rfl, rfl, rfl⟩ := hrange
      have hbit : bitsOf b 2 1 = 1 := hbit
      simp only [List.cons_append, List.nil_append, parseCondition, hk, hbit, Nat.one_ne_zero, if_false,
        ← eq_fin4_bits_iff.2 hslot, beNat_four]
  | flag flags all =>
    obtain ⟨b, f, rfl, hk, hf, rfl, rfl⟩ := h
    rw [← conditionKind_eq] at hk
    simp only [List.cons_append, List.nil_append, parseCondition, hk, hf, if_false, bitsOf_flag_low]

/-! ### Branches -/

/-- The branch that five head bytes and its conditions give (R77, R170). -/
def branchOf (b0 n1 n0 raises b4 : Byte) (a : Condition) (c : Option Condition) : Branch :=
  { condA := a, condB := c, combiner := combinerOfCode (bitsOf b0 6 2),
    countsSamples := bitsOf b0 5 1 == 1,
    count := (word16 n1 n0).toNat + 1,
    nextStage := fin8 (bitsOf b0 0 3),
    trigger := bitsOf b0 4 1 == 1,
    raises := raises,
    restarts := BitVec.ofNat 4 (bitsOf b4 0 4),
    marker := bitsOf b0 3 1 == 1 }

/-- The fields of a branch outside its conditions stand in its head bytes (R77, R170). -/
structure BranchHead (b0 n1 n0 raises b4 : Byte) (b : Branch) : Prop where
  combiner : b0.toNat / 64 = b.combiner.code
  countsSamples : b.countsSamples = decide (b0.toNat / 32 % 2 = 1)
  trigger : b.trigger = decide (b0.toNat / 16 % 2 = 1)
  marker : b.marker = decide (b0.toNat / 8 % 2 = 1)
  nextStage : b.nextStage.val = b0.toNat % 8
  count : b.count = pairOf n1 n0 + 1
  raises : b.raises = raises
  restarts : b.restarts.toNat = b4.toNat % 16

/-- A branch is that of its head bytes and conditions. -/
theorem eq_branchOf_iff {b0 n1 n0 raises b4 : Byte} {a : Condition} {c : Option Condition} {b : Branch} :
    b = branchOf b0 n1 n0 raises b4 a c ↔ BranchHead b0 n1 n0 raises b4 b ∧ b.condA = a ∧ b.condB = c := by
  have hcomb {m : Combiner} : m = combinerOfCode (bitsOf b0 6 2) ↔ b0.toNat / 64 = m.code := by
    have hlt := b0.isLt
    rw [bitsOf_top b0 rfl]
    exact eq_combinerOfCode_iff (by omega)
  have hnext {n : Fin 8} : n = fin8 (bitsOf b0 0 3) ↔ n.val = b0.toNat % 8 := by
    rw [Fin.ext_iff, bitsOf_low]
    show n.val = b0.toNat % 2 ^ 3 % 8 ↔ _
    omega
  have hrestarts {r : BitVec 4} : r = BitVec.ofNat 4 (bitsOf b4 0 4) ↔ r.toNat = b4.toNat % 16 := by
    rw [← BitVec.toNat_inj, BitVec.toNat_ofNat, bitsOf_low, Nat.mod_mod]
    rfl
  constructor
  · rintro rfl
    exact ⟨⟨hcomb.1 rfl, rfl, rfl, rfl, hnext.1 rfl, congrArg (· + 1) (word16_toNat _ _), rfl, hrestarts.1 rfl⟩, rfl, rfl⟩
  · obtain ⟨condA, condB, combiner, countsSamples, count, nextStage, trigger, raises, restarts, marker⟩ := b
    rintro ⟨⟨h1, rfl, rfl, rfl, h5, rfl, rfl, h8⟩, rfl, rfl⟩
    obtain rfl := hcomb.2 h1
    obtain rfl := hnext.2 h5
    obtain rfl := hrestarts.2 h8
    rw [branchOf, word16_toNat]
    rfl

/-- What R96 asks of a branch: a condition B unless the combiner is A alone, and a next stage of the program. -/
def branchAllowed (stages : Nat) (b0 : Byte) (c : Option Condition) : Prop :=
  ¬(combinerOfCode (bitsOf b0 6 2) ≠ .a ∧ c = none) ∧ bitsOf b0 0 3 < stages

/-- A branch is read from five head bytes, a condition, and a second one where the head names it (R77, R170). -/
theorem parseBranch_eq_some {stages : Nat} {b0 n1 n0 raises b4 : Byte} {tail rest : List Byte} {b : Branch} :
    parseBranch stages (b0 :: n1 :: n0 :: raises :: b4 :: tail) = some (b, rest) ↔
      ∃ a mid, parseCondition tail = some (a, mid)
        ∧ ∃ c, branchAllowed stages b0 c ∧ b = branchOf b0 n1 n0 raises b4 a c
          ∧ if bitsOf b4 7 1 = 0 then c = none ∧ mid = rest else ∃ c', c = some c' ∧ parseCondition mid = some (c', rest) := by
  unfold branchAllowed
  rw [parseBranch]
  cases ha : parseCondition tail with
  | none => simp
  | some x =>
    obtain ⟨a, mid⟩ := x
    by_cases hbit : bitsOf b4 7 1 = 0
    · simp [hbit, branchOf, and_assoc, eq_comm (a := b)]
    · cases hc : parseCondition mid with
      | none => simp [hbit, hc]
      | some y =>
        obtain ⟨c, more⟩ := y
        simp [hbit, hc, branchOf, and_assoc, eq_comm (a := b), eq_comm (a := c), and_left_comm]

/-- Bit 7 of the fifth head byte tells whether a condition B follows (R170). -/
theorem noConditionB_iff (b4 : Byte) : bitsOf b4 7 1 = 0 ↔ b4.toNat < 128 := by
  rw [bitsOf_top b4 rfl]
  omega

theorem branchAllowed_none {stages : Nat} {b0 : Byte} :
    branchAllowed stages b0 none ↔ combinerOfCode (bitsOf b0 6 2) = .a ∧ b0.toNat % 8 < stages := by
  simp [branchAllowed, bitsOf_low]

theorem branchAllowed_some {stages : Nat} {b0 : Byte} {c : Condition} :
    branchAllowed stages b0 (some c) ↔ b0.toNat % 8 < stages := by
  simp [branchAllowed, bitsOf_low]

/-- The layout of a branch, with the fields of its head named together. -/
theorem Branch.laidOut_iff {stages : Nat} {bytes : List Byte} {b : Branch} :
    b.laidOut stages bytes ↔
      ∃ (b0 n1 n0 raises b4 : Byte) (first second : List Byte),
        bytes = b0 :: n1 :: n0 :: raises :: b4 :: (first ++ second) ∧ BranchHead b0 n1 n0 raises b4 b
          ∧ b0.toNat % 8 < stages ∧ b.condA.laidOut first
          ∧ (b4.toNat < 128 → b.condB = none ∧ second = [] ∧ b.combiner = .a)
          ∧ (128 ≤ b4.toNat → ∃ c, b.condB = some c ∧ c.laidOut second) := by
  constructor
  · rintro ⟨b0, n1, n0, raises, b4, first, second, hbytes, h1, h2, h3, h4, h5, hnext, h6, h7, h8, hA, hshort, hlong⟩
    exact ⟨b0, n1, n0, raises, b4, first, second, hbytes, ⟨h1, h2, h3, h4, h5, h6, h7, h8⟩, hnext, hA, hshort, hlong⟩
  · rintro ⟨b0, n1, n0, raises, b4, first, second, hbytes, ⟨h1, h2, h3, h4, h5, h6, h7, h8⟩, hnext, hA, hshort, hlong⟩
    exact ⟨b0, n1, n0, raises, b4, first, second, hbytes, h1, h2, h3, h4, h5, hnext, h6, h7, h8, hA, hshort, hlong⟩

/-- What is read as a branch is laid out at the front of the bytes (R77, R170). -/
theorem laidOut_of_parseBranch {stages : Nat} {bytes rest : List Byte} {b : Branch}
    (h : parseBranch stages bytes = some (b, rest)) : ∃ one, bytes = one ++ rest ∧ b.laidOut stages one := by
  match bytes with
  | [] | [_] | [_, _] | [_, _, _] | [_, _, _, _] => cases h
  | b0 :: n1 :: n0 :: raises :: b4 :: tail =>
    obtain ⟨a, mid, hA, c, hallowed, hb, hB⟩ := parseBranch_eq_some.1 h
    obtain ⟨hhead, rfl, rfl⟩ := eq_branchOf_iff.1 hb
    obtain ⟨first, rfl, hfirst⟩ := laidOut_of_parseCondition hA
    split at hB
    next hbit =>
      obtain ⟨hnone, rfl⟩ := hB
      rw [noConditionB_iff] at hbit
      rw [hnone, branchAllowed_none] at hallowed
      obtain ⟨hcomb, hnext⟩ := hallowed
      have hcombA : b.combiner = .a := (congrArg Branch.combiner hb).trans hcomb
      exact ⟨b0 :: n1 :: n0 :: raises :: b4 :: (first ++ []), by simp, Branch.laidOut_iff.2
        ⟨b0, n1, n0, raises, b4, first, [], rfl, hhead, hnext, hfirst, fun _ => ⟨hnone, rfl, hcombA⟩, fun h => by omega⟩⟩
    next hbit =>
      obtain ⟨c, hsome, hC⟩ := hB
      obtain ⟨second, rfl, hsecond⟩ := laidOut_of_parseCondition hC
      rw [noConditionB_iff] at hbit
      rw [hsome, branchAllowed_some] at hallowed
      exact ⟨b0 :: n1 :: n0 :: raises :: b4 :: (first ++ second), by simp, Branch.laidOut_iff.2
        ⟨b0, n1, n0, raises, b4, first, second, rfl, hhead, hallowed, hfirst, fun h => absurd h hbit,
          fun _ => ⟨c, hsome, hsecond⟩⟩⟩

/-- A branch laid out at the front of the bytes is read (R77, R170). -/
theorem parseBranch_of_laidOut {stages : Nat} {one : List Byte} {b : Branch} (h : b.laidOut stages one)
    (rest : List Byte) : parseBranch stages (one ++ rest) = some (b, rest) := by
  obtain ⟨b0, n1, n0, raises, b4, first, second, rfl, hhead, hnext, hfirst, hshort, hlong⟩ := Branch.laidOut_iff.1 h
  have hb : b = branchOf b0 n1 n0 raises b4 b.condA b.condB := eq_branchOf_iff.2 ⟨hhead, rfl, rfl⟩
  have hA : parseCondition (first ++ second ++ rest) = some (b.condA, second ++ rest) := by
    rw [List.append_assoc]
    exact parseCondition_of_laidOut hfirst _
  simp only [List.cons_append]
  refine parseBranch_eq_some.2 ⟨b.condA, second ++ rest, hA, b.condB, ?_, hb, ?_⟩
  · by_cases hbit : b4.toNat < 128
    · obtain ⟨hnone, -, hcomb⟩ := hshort hbit
      rw [hnone, branchAllowed_none]
      exact ⟨(congrArg Branch.combiner hb).symm.trans hcomb, hnext⟩
    · obtain ⟨c, hsome, -⟩ := hlong (Nat.not_lt.1 hbit)
      rw [hsome, branchAllowed_some]
      exact hnext
  · split
    next hbit =>
      obtain ⟨hnone, rfl, -⟩ := hshort ((noConditionB_iff b4).1 hbit)
      exact ⟨hnone, rfl⟩
    next hbit =>
      rw [noConditionB_iff] at hbit
      obtain ⟨c, hsome, hsecond⟩ := hlong (Nat.not_lt.1 hbit)
      exact ⟨c, hsome, parseCondition_of_laidOut hsecond rest⟩

/-! ### Stages -/

/-- A stage is read from a head byte, PRIMARY, and ALTERNATE where the head names it (R77, R170). -/
theorem parseStage_eq_some {stages : Nat} {head : Byte} {tail rest : List Byte} {st : Stage} :
    parseStage stages (head :: tail) = some (st, rest) ↔
      ∃ mid, parseBranch stages tail = some (st.primary, mid)
        ∧ if bitsOf head 0 1 = 0 then st.alternate = none ∧ mid = rest
          else ∃ alt, st.alternate = some alt ∧ parseBranch stages mid = some (alt, rest) := by
  obtain ⟨primary, alternate⟩ := st
  rw [parseStage]
  cases hp : parseBranch stages tail with
  | none => simp
  | some x =>
    obtain ⟨p, mid⟩ := x
    by_cases hbit : bitsOf head 0 1 = 0
    · simp [hbit, and_assoc, eq_comm (a := alternate)]
    · cases ha : parseBranch stages mid with
      | none => simp [hbit, ha]
      | some y =>
        obtain ⟨a, more⟩ := y
        simp [hbit, ha, and_assoc, eq_comm (a := alternate), eq_comm (a := a), and_left_comm]

/-- Bit 0 of the head byte of a stage tells whether an ALTERNATE follows (R170). -/
theorem noAlternate_iff (head : Byte) : bitsOf head 0 1 = 0 ↔ head.toNat % 2 = 0 := by
  rw [bitsOf_low, Nat.pow_one]

/-- What is read as a stage record is laid out at the front of the bytes (R77, R170). -/
theorem laidOut_of_parseStage {stages : Nat} {bytes rest : List Byte} {st : Stage}
    (h : parseStage stages bytes = some (st, rest)) : ∃ one, bytes = one ++ rest ∧ st.laidOut stages one := by
  match bytes with
  | [] => cases h
  | head :: tail =>
    obtain ⟨mid, hP, hA⟩ := parseStage_eq_some.1 h
    obtain ⟨first, rfl, hfirst⟩ := laidOut_of_parseBranch hP
    split at hA
    next hbit =>
      obtain ⟨hnone, rfl⟩ := hA
      rw [noAlternate_iff] at hbit
      exact ⟨head :: (first ++ []), by simp, head, first, [], rfl, hfirst, fun _ => ⟨hnone, rfl⟩, fun h => by omega⟩
    next hbit =>
      obtain ⟨alt, hsome, hS⟩ := hA
      obtain ⟨second, rfl, hsecond⟩ := laidOut_of_parseBranch hS
      rw [noAlternate_iff] at hbit
      exact ⟨head :: (first ++ second), by simp, head, first, second, rfl, hfirst, fun h => absurd h hbit,
        fun _ => ⟨alt, hsome, hsecond⟩⟩

/-- A stage record laid out at the front of the bytes is read (R77, R170). -/
theorem parseStage_of_laidOut {stages : Nat} {one : List Byte} {st : Stage} (h : st.laidOut stages one)
    (rest : List Byte) : parseStage stages (one ++ rest) = some (st, rest) := by
  obtain ⟨head, first, second, rfl, hfirst, hshort, hlong⟩ := h
  refine parseStage_eq_some.2 ⟨second ++ rest, ?_, ?_⟩
  · exact (congrArg _ (List.append_assoc first second rest)).trans (parseBranch_of_laidOut hfirst _)
  · split
    next hbit =>
      obtain ⟨hnone, rfl⟩ := hshort ((noAlternate_iff head).1 hbit)
      exact ⟨hnone, rfl⟩
    next hbit =>
      rw [noAlternate_iff] at hbit
      obtain ⟨alt, hsome, hsecond⟩ := hlong ((Nat.mod_two_eq_zero_or_one _).resolve_left hbit)
      exact ⟨alt, hsome, parseBranch_of_laidOut hsecond rest⟩

/-- No stage record is read where none is laid out (R96). -/
theorem parseStage_eq_none_iff {stages : Nat} {bytes : List Byte} :
    parseStage stages bytes = none ↔ ∀ one more st, bytes = one ++ more → ¬Stage.laidOut stages one st := by
  constructor
  · rintro hnone one more st rfl hst
    rw [parseStage_of_laidOut hst] at hnone
    cases hnone
  · intro hno
    refine Option.eq_none_iff_forall_ne_some.2 (fun x hx => ?_)
    obtain ⟨one, hbytes, hst⟩ := laidOut_of_parseStage hx
    exact hno one x.2 x.1 hbytes hst

/-! ## Validation -/

/-- Validation goes through stages that are laid out (R96). -/
theorem validateStages_reads {stages : Nat} {read : List Byte} {program : List Stage}
    (h : stagesLaidOut stages read program) (i todo : Nat) (rest : List Byte) (done : List Stage) :
    validateStages stages i (program.length + todo) (read ++ rest) done =
      validateStages stages (i + program.length) todo rest (done ++ program) := by
  induction program generalizing read i done with
  | nil =>
    obtain rfl : read = [] := h
    simp
  | cons st more ih =>
    obtain ⟨one, tail, rfl, hst, hmore⟩ := h
    rw [List.length_cons, Nat.add_right_comm, validateStages, List.append_assoc, parseStage_of_laidOut hst]
    dsimp only
    rw [ih hmore, Nat.add_assoc, Nat.add_comm 1, List.append_assoc, List.singleton_append]

/-- Validation has a verdict for any bytes: stages are laid out as far as they go, and either all are there, or the next one is
not, or bytes are left (R96). -/
theorem exists_stagesLaidOut (stages todo : Nat) (bytes : List Byte) :
    ∃ read rest program, bytes = read ++ rest ∧ stagesLaidOut stages read program
      ∧ (program.length = todo ∨ program.length < todo ∧ parseStage stages rest = none) := by
  induction todo generalizing bytes with
  | zero => exact ⟨[], bytes, [], rfl, rfl, Or.inl rfl⟩
  | succ todo ih =>
    cases hp : parseStage stages bytes with
    | none => exact ⟨[], bytes, [], rfl, rfl, Or.inr ⟨Nat.succ_pos _, hp⟩⟩
    | some x =>
      obtain ⟨st, tail⟩ := x
      obtain ⟨one, rfl, hst⟩ := laidOut_of_parseStage hp
      obtain ⟨read, rest, program, rfl, hread, hend⟩ := ih tail
      refine ⟨one ++ read, rest, st :: program, (List.append_assoc ..).symm, ⟨one, read, rfl, hst, hread⟩, ?_⟩
      rw [List.length_cons]
      exact hend.imp (congrArg (· + 1)) (fun ⟨hlt, hnone⟩ => ⟨Nat.succ_lt_succ hlt, hnone⟩)

section Image
variable {stages : Nat} {image : List Byte}

/-- An image that holds a program is valid (R96). -/
theorem validateImage_holds {program : List Stage} (h : imageHolds stages image program) :
    validateImage stages image = .valid program := by
  obtain ⟨rfl, hlaid⟩ := h
  have hread := validateStages_reads hlaid 0 0 [] []
  rw [List.append_nil, Nat.add_zero] at hread
  exact hread

/-- An image is refused at its first stage that fails (R96). -/
theorem validateImage_fails {i : Nat} (h : imageFailsAt stages image i) : validateImage stages image = .fails i := by
  obtain ⟨read, rest, program, hbytes, hlaid, ⟨hi, rfl, hno⟩ | ⟨rfl, rfl, hrest⟩⟩ := h
  · obtain ⟨todo, rfl⟩ := Nat.exists_eq_add_of_lt hi
    have hread := validateStages_reads hlaid 0 (todo + 1) rest []
    rw [validateStages, parseStage_eq_none_iff.2 hno, Nat.zero_add] at hread
    rw [validateImage, hbytes]
    exact hread
  · have hread := validateStages_reads hlaid 0 0 rest []
    rw [validateStages, if_neg hrest, Nat.zero_add] at hread
    rw [validateImage, hbytes]
    exact hread

/-- An image holds a program or fails at a stage (R96). -/
theorem imageHolds_or_failsAt (stages : Nat) (image : List Byte) :
    (∃ program, imageHolds stages image program) ∨ ∃ i, imageFailsAt stages image i := by
  obtain ⟨read, rest, program, hbytes, hlaid, hend⟩ := exists_stagesLaidOut stages stages image.dropLast
  rcases hend with hall | ⟨hlt, hnone⟩
  · rcases eq_or_ne rest [] with rfl | hrest
    · rw [List.append_nil] at hbytes
      exact Or.inl ⟨program, hall, hbytes ▸ hlaid⟩
    · exact Or.inr ⟨stages - 1, read, rest, program, hbytes, hlaid, Or.inr ⟨rfl, hall, hrest⟩⟩
  · exact Or.inr ⟨program.length, read, rest, program, hbytes, hlaid,
      Or.inl ⟨hlt, rfl, parseStage_eq_none_iff.1 hnone⟩⟩

end Image

/-! ## The end of a load -/

/-- The check sum of an image is the sum of its bytes modulo 256 (R95). -/
theorem imageSum_toNat (image : List Byte) : (imageSum image).toNat = (image.map BitVec.toNat).sum % 256 := by
  have hfrom (b : Byte) : (image.foldl (· + ·) b).toNat = (b.toNat + (image.map BitVec.toNat).sum) % 256 := by
    induction image generalizing b with
    | nil => exact (Nat.mod_eq_of_lt b.isLt).symm
    | cons x rest ih =>
      rw [List.foldl_cons, ih, List.map_cons, List.sum_cons, BitVec.toNat_add, Nat.mod_add_mod, Nat.add_assoc]
  rw [imageSum, hfrom]
  simp

theorem imageSum_eq_zero_iff (image : List Byte) : imageSum image = 0 ↔ (image.map BitVec.toNat).sum % 256 = 0 := by
  rw [← imageSum_toNat, ← BitVec.toNat_inj]
  rfl

section Finish
variable {s : State} {l : Load} {image : List Byte}

theorem State.finishLoad_check (h : (image.map BitVec.toNat).sum % 256 ≠ 0) :
    s.finishLoad l image = s.abandonLoad.refuse .check :=
  if_pos (fun hz => h ((imageSum_eq_zero_iff image).1 hz))

variable (h : (image.map BitVec.toNat).sum % 256 = 0)
include h

theorem State.finishLoad_conflict {i : Nat} (hi : imageFailsAt l.stages image i) :
    s.finishLoad l image = { state := s.abandonLoad, status := .conflict, index := i } := by
  rw [State.finishLoad, if_neg (not_not.2 ((imageSum_eq_zero_iff image).2 h)), validateImage_fails hi]

theorem State.finishLoad_activates {program : List Stage} (hp : imageHolds l.stages image program) :
    s.finishLoad l image = ((s.withLoad none none).withSeq (s.seq.activate program)).ok := by
  rw [State.finishLoad, if_neg (not_not.2 ((imageSum_eq_zero_iff image).2 h)), validateImage_holds hp]

end Finish

/-- Settles O17, by the check sum and by what the image holds. -/
theorem loadEndsWithItsLastByte : Obligations.LoadEndsWithItsLastByte := by
  intro o s l h hload hown hlen h1 h2 hoff hlast image sum
  have hfits : partFits o := hlen
  have hrange : partInRange o l := ⟨h1, h2, hlast.le⟩
  have hfinish : State.loadPart { s with link := s.heardLink } o l = State.finishLoad { s with link := s.heardLink } l image :=
    State.loadPart_finishes hfits hrange hoff hlast
  refine ⟨fun hsum => ?_, imageHolds_or_failsAt l.stages image, fun stage hsum hfails => ?_, fun program hsum hholds => ?_⟩
  · exact exec_loadPart_abandons h hfits.long hload hown (hfinish.trans (State.finishLoad_check hsum))
  · exact exec_loadPart_abandons h hfits.long hload hown (hfinish.trans (State.finishLoad_conflict hsum hfails))
  · refine congrArg Host.Outcome.next ?_
    rw [State.takeOrder_taken h _ (decide_eq_true hfits.long),
      judgeLoadPart_owner (s := { s with link := s.heardLink }) hload hown, hfinish,
      State.finishLoad_activates hsum hholds, Judged.settle_eq]
    rfl

end Sys2Proof.Machine

/-! SUPPORT. The Trigger Sequencer at a sample: conditions, hold counts, predicates, and the branch that is taken. -/

namespace Sys2Proof.Machine

/-! ## Conditions -/

/-- The edge set shows a channel in a direction (R61, R78). -/
theorem Sample.shows_iff (x : Sample) (ch : Channel) (e : Edge) :
    x.shows ch e = true ↔
      (e ≠ .falling ∧ x.rises.getLsbD ch.val = true) ∨ (e ≠ .rising ∧ x.falls.getLsbD ch.val = true) := by
  cases e <;> simp [Sample.shows, hasChannel]

theorem DecodeErrors.isEmpty_iff (e : DecodeErrors) : e.isEmpty = true ↔ e = {} := by
  obtain ⟨parity, framing, short, runt, stall⟩ := e
  simp [DecodeErrors.isEmpty, and_assoc]

/-- An error selector accepts the sets that it names (R80). -/
theorem ErrorSelector.accepts_iff (sel : ErrorSelector) (e : DecodeErrors) :
    sel.accepts e = true ↔ (sel = .none → e = {}) ∧ (sel = .some → e ≠ {}) := by
  cases sel with
  | any => simp [ErrorSelector.accepts]
  | none => simp [ErrorSelector.accepts, DecodeErrors.isEmpty_iff]
  | some => simp [ErrorSelector.accepts, ← DecodeErrors.isEmpty_iff]

/-- Every flag of a set was heard (R78). -/
theorem heardAll_iff (heard flags : FlagSet) :
    (heard &&& flags == flags) = true ↔ ∀ n < 8, flags.getLsbD n = true → heard.getLsbD n = true := by
  rw [beq_iff_eq]
  constructor
  · intro h n _ hn
    simpa [hn] using congrArg (fun v => v.getLsbD n) h
  · intro h
    refine BitVec.eq_of_getLsbD_eq (fun n hn => ?_)
    cases hf : flags.getLsbD n with
    | false => simp [hf]
    | true => simp [hf, h n hn hf]

/-- A flag of a set was heard (R78). -/
theorem heardAny_iff (heard flags : FlagSet) :
    (heard &&& flags != 0) = true ↔ ∃ n < 8, flags.getLsbD n = true ∧ heard.getLsbD n = true := by
  rw [bne_iff_ne, ne_eq, ← not_iff_not, not_not]
  constructor
  · rintro h ⟨n, -, hf, hh⟩
    simpa [hf, hh] using congrArg (fun v => v.getLsbD n) h
  · intro h
    refine BitVec.eq_of_getLsbD_eq (fun n hn => ?_)
    have hnot : ¬(heard &&& flags).getLsbD n = true := fun hboth => by
      obtain ⟨hh, hf⟩ := Bool.and_eq_true_iff.1 ((BitVec.getLsbD_and ..).symm.trans hboth)
      exact h ⟨n, hn, hf, hh⟩
    exact (Bool.eq_false_iff.2 hnot).trans BitVec.getLsbD_zero.symm

/-- A condition is evaluated true where it holds (R78, R80). -/
theorem Condition.eval_iff (c : Condition) (i : SeqInputs) (heard : FlagSet) (hold : Nat) :
    c.eval i heard hold = true ↔ c.holdsAt i heard hold := by
  cases c with
  | always => exact iff_of_true rfl trivial
  | pattern v m h => exact decide_eq_true_iff
  | edge ch dir => exact i.sample.shows_iff ch dir
  | decode slot kind value mask errors =>
    simp [Condition.eval, Condition.holdsAt, maskedEq_iff, ErrorSelector.accepts_iff, and_assoc]
  | counter k range =>
    cases range with
    | none => simp [Condition.eval, Condition.holdsAt]
    | some bounds =>
      obtain ⟨lo, hi⟩ := bounds
      simp [Condition.eval, Condition.holdsAt]
  | flag flags all =>
    cases all with
    | true => exact heardAll_iff heard flags
    | false => exact heardAny_iff heard flags

/-- The hold count of a condition after a sample (R79). -/
theorem Condition.holdAfter_heldFor (c : Condition) (value : Levels) (hold : Nat) :
    c.heldFor value hold (c.holdAfter value hold) := by
  cases c with
  | pattern v mask h =>
    refine ⟨fun hs => ?_, fun hn => ?_⟩
    · exact if_pos ((maskedEq_iff mask value v).2 hs)
    · exact if_neg (fun hs => hn ((maskedEq_iff mask value v).1 hs))
  | always | edge _ _ | decode _ _ _ _ _ | counter _ _ | flag _ _ => rfl

/-! ## Branches -/

theorem Branch.holdsAfter_heldFor (b : Branch) (value : Levels) (h : BranchHolds) :
    b.heldFor value h (b.holdsAfter value h) := by
  refine ⟨b.condA.holdAfter_heldFor value h.a, fun c hc => ?_⟩
  rw [Branch.holdsAfter, hc]
  exact c.holdAfter_heldFor value h.b

/-- A branch's predicate is true where its conditions and combiner make it so (R81). -/
theorem Branch.predicate_iff (b : Branch) (i : SeqInputs) (heard : FlagSet) (h : BranchHolds) :
    b.predicate i heard h = true ↔ b.holdsAt i heard h := by
  unfold Branch.predicate Branch.holdsAt
  cases b.condB <;> cases b.combiner <;> simp [Condition.eval_iff, ← Bool.not_eq_true]

/-- The count of a branch after a sample with a predicate, given the predicate at the sample before (R81, R84). -/
def Branch.counted (b : Branch) (pred : Bool) (count : Nat) (prev : Option Bool) : Nat :=
  count + (b.occurs pred prev).toNat

/-! ## A sample -/

/-- The hold counts of the stages after a sample, stage by stage (R79). -/
theorem Sequencer.settle_holds_heldFor (q : Sequencer) (i : SeqInputs) {n : Nat} {x : Stage} {h after : StageHolds}
    (hx : q.program[n]? = some x) (hh : q.holds[n]? = some h) (ha : (q.settle i).holds[n]? = some after) :
    x.primary.heldFor i.sample.value h.primary after.primary
      ∧ ∀ b, x.alternate = some b → b.heldFor i.sample.value h.alternate after.alternate := by
  have hafter : after = x.holdsAfter i.sample.value h := by
    rw [Sequencer.settle, List.getElem?_zipWith, hx, hh] at ha
    exact (Option.some.inj ha).symm
  subst hafter
  refine ⟨x.primary.holdsAfter_heldFor _ _, fun b hb => ?_⟩
  rw [Stage.holdsAfter, hb]
  exact b.holdsAfter_heldFor _ _

/-- The count of PRIMARY after a sample (R84). -/
def Sequencer.primaryAfter (q : Sequencer) (i : SeqInputs) (st : Stage) : Nat :=
  st.primary.counted (q.predicateOf i st.primary false) q.primaryCount q.primaryPrev

/-- The count of ALTERNATE after a sample (R84). -/
def Sequencer.alternateAfter (q : Sequencer) (i : SeqInputs) (alt : Branch) : Nat :=
  alt.counted (q.predicateOf i alt true) q.alternateCount q.alternatePrev

section Count
variable {q : Sequencer} {i : SeqInputs} {st : Stage} (hst : q.currentStage = some st)
include hst

/-- A stage without ALTERNATE counts PRIMARY alone (R84, R85). -/
theorem Sequencer.count_alone (halt : st.alternate = none) :
    q.count i =
      ({ q with
          primaryCount := q.primaryAfter i st
          primaryPrev := some (q.predicateOf i st.primary false) },
        if st.primary.count ≤ q.primaryAfter i st then some ⟨q.stage, .primary, st.primary⟩ else none) := by
  rw [Sequencer.count, hst]
  dsimp only
  rw [halt]
  rfl

/-- A stage with ALTERNATE counts both branches, and takes PRIMARY before ALTERNATE (R84, R85). -/
theorem Sequencer.count_both {alt : Branch} (halt : st.alternate = some alt) :
    q.count i =
      ({ q with
          primaryCount := q.primaryAfter i st
          primaryPrev := some (q.predicateOf i st.primary false)
          alternateCount := q.alternateAfter i alt
          alternatePrev := some (q.predicateOf i alt true) },
        if st.primary.count ≤ q.primaryAfter i st then some ⟨q.stage, .primary, st.primary⟩
        else if alt.count ≤ q.alternateAfter i alt then some ⟨q.stage, .alternate, alt⟩
        else none) := by
  rw [Sequencer.count, hst]
  dsimp only
  rw [halt]
  rfl

/-- PRIMARY at its count is taken, whatever ALTERNATE does (R85). -/
theorem Sequencer.count_takes_primary (hp : st.primary.count ≤ q.primaryAfter i st) :
    (q.count i).2 = some ⟨q.stage, .primary, st.primary⟩ := by
  cases halt : st.alternate with
  | none =>
    rw [Sequencer.count_alone hst halt]
    exact if_pos hp
  | some alt =>
    rw [Sequencer.count_both hst halt]
    exact if_pos hp

/-- ALTERNATE at its count is taken where PRIMARY has not reached its own (R85). -/
theorem Sequencer.count_takes_alternate {alt : Branch} (halt : st.alternate = some alt)
    (hp : q.primaryAfter i st < st.primary.count) (ha : alt.count ≤ q.alternateAfter i alt) :
    (q.count i).2 = some ⟨q.stage, .alternate, alt⟩ := by
  rw [Sequencer.count_both hst halt]
  exact (if_neg (Nat.not_le.2 hp)).trans (if_pos ha)

end Count

section Evaluate
variable {q : Sequencer} {i : SeqInputs}

/-- Counting moves nothing that the entry of a stage leaves (R84, R86). -/
theorem Sequencer.count_enter (n : Fin 8) (heard : FlagSet) : (q.count i).1.enter n heard = q.enter n heard := by
  unfold Sequencer.count
  split
  · rfl
  · dsimp only
    split <;> rfl

theorem Sequencer.evaluate_takes {t : Taken} (h : ((q.settle i).count i).2 = some t) :
    q.evaluate i = ((q.settle i).enter t.branch.nextStage (i.placed ||| t.branch.raises), some t) := by
  rw [Sequencer.evaluate, h, ← Sequencer.count_enter (i := i)]

theorem Sequencer.evaluate_stays {q' : Sequencer} (h : (q.settle i).count i = (q', none)) :
    q.evaluate i = (q', none) := by
  rw [Sequencer.evaluate, h]

end Evaluate

/-- The predicate of the ALTERNATE of a stage, false where it has none. -/
def Sequencer.alternateHolds (q : Sequencer) (i : SeqInputs) (st : Stage) : Bool :=
  st.alternate.any (fun b => q.predicateOf i b true)

/-- Settles O56, by whether the stage has an ALTERNATE and which branches reach their counts. -/
theorem primaryIsTakenBeforeAlternate : Obligations.PrimaryIsTakenBeforeAlternate := by
  intro q i st hst
  have hstage : (q.settle i).currentStage = some st := hst
  refine ⟨(q.settle i).holds, (q.settle i).predicateOf i st.primary false, (q.settle i).alternateHolds i st, ?_⟩
  intro heard settled held counted primary entered
  have hother {b : Branch} (hb : st.alternate = some b) :
      (q.settle i).predicateOf i b true = (q.settle i).alternateHolds i st := by
    rw [Sequencer.alternateHolds, hb, Option.any_some]
  refine ⟨List.length_zipWith, fun n x h after hx hh ha => q.settle_holds_heldFor i hx hh ha,
    st.primary.predicate_iff i heard held.primary, fun b hb => ?_, fun hp => ?_, fun alt halt hp ha => ?_,
    fun alt halt hp ha => ?_, fun halt hp => ?_⟩
  · rw [← hother hb]
    exact b.predicate_iff i heard held.alternate
  · exact ⟨_, Sequencer.evaluate_takes (Sequencer.count_takes_primary hstage hp), rfl⟩
  · rw [← hother halt] at ha
    exact ⟨_, Sequencer.evaluate_takes (Sequencer.count_takes_alternate hstage halt hp ha), rfl⟩
  · rw [← hother halt] at ha ⊢
    refine Sequencer.evaluate_stays ((Sequencer.count_both hstage halt).trans (congrArg _ ?_))
    exact (if_neg (Nat.not_le.2 hp)).trans (if_neg (Nat.not_le.2 ha))
  · refine Sequencer.evaluate_stays ((Sequencer.count_alone hstage halt).trans (congrArg _ ?_))
    exact if_neg (Nat.not_le.2 hp)

end Sys2Proof.Machine

/-! SUPPORT. The timers of elapsed time, and the COLUMNS post that a pass composes. -/

namespace Sys2Proof.Machine

/-! ## Cell bytes -/

/-- A cell byte: its four flags and the count in its lowest four bits (R170). -/
def cellByte (bit6 bit7 bit5 bit4 : Bool) (count : Nat) : Byte :=
  byteOf (64 * bit6.toNat + 128 * bit7.toNat + 32 * bit5.toNat + 16 * bit4.toNat + count)

/-- A bit of a number kept in a byte. -/
theorem byteOf_getLsbD {n k : Nat} {b : Bool} (hk : k < 8) (h : n / 2 ^ k % 2 = b.toNat) : (byteOf n).getLsbD k = b := by
  rw [byteOf, BitVec.getLsbD_ofNat, decide_eq_true hk, Bool.true_and, Nat.testBit_eq_decide_div_mod_eq, h]
  cases b <;> rfl

section CellByte
variable (bit6 bit7 bit5 bit4 : Bool) {count : Nat} (hc : count < 16)
include hc

theorem cellByte_bit6 : (cellByte bit6 bit7 bit5 bit4 count).getLsbD 6 = bit6 := by
  have h6 := bit6.toNat_lt
  have h5 := bit5.toNat_lt
  have h4 := bit4.toNat_lt
  exact byteOf_getLsbD (by decide) (by omega)

theorem cellByte_bit7 : (cellByte bit6 bit7 bit5 bit4 count).getLsbD 7 = bit7 := by
  have h7 := bit7.toNat_lt
  have h6 := bit6.toNat_lt
  have h5 := bit5.toNat_lt
  have h4 := bit4.toNat_lt
  exact byteOf_getLsbD (by decide) (by omega)

theorem cellByte_bit5 : (cellByte bit6 bit7 bit5 bit4 count).getLsbD 5 = bit5 := by
  have h5 := bit5.toNat_lt
  have h4 := bit4.toNat_lt
  exact byteOf_getLsbD (by decide) (by omega)

theorem cellByte_bit4 : (cellByte bit6 bit7 bit5 bit4 count).getLsbD 4 = bit4 := by
  have h4 := bit4.toNat_lt
  exact byteOf_getLsbD (by decide) (by omega)

theorem cellByte_count : (cellByte bit6 bit7 bit5 bit4 count).toNat % 16 = count := by
  rw [cellByte, byteOf, BitVec.toNat_ofNat]
  omega

end CellByte

/-- A count of a cell stops at 15, so it stays within four bits (R143, R144). -/
theorem cellCount_lt (n : Nat) : min 15 n < 16 := by omega

/-! ## Cells of a column -/

/-- A sum taken along a list. -/
theorem foldl_add_eq_sum {α : Type} (f : α → Nat) (l : List α) : l.foldl (fun n x => n + f x) 0 = (l.map f).sum := by
  rw [List.sum_eq_foldl, List.foldl_map]

section Cells
variable (v : PassView) (lo hi : Int)

/-- The covers that reach into the ticks from `lo` to before `hi`. -/
def PassView.coversIn : List Cover := v.covers.filter (fun c => c.meets lo hi)

theorem PassView.mem_coversIn (c : Cover) :
    c ∈ v.coversIn lo hi ↔ c ∈ v.covers ∧ (c.first : Int) < hi ∧ lo ≤ (c.last : Int) := by
  rw [PassView.coversIn, List.mem_filter, Cover.meets, decide_eq_true_eq]

theorem PassView.coversIn_any (p : Cover → Bool) :
    (v.coversIn lo hi).any p = true ↔
      ∃ c, (c ∈ v.covers ∧ (c.first : Int) < hi ∧ lo ≤ (c.last : Int)) ∧ p c = true := by
  simp only [List.any_eq_true, PassView.mem_coversIn]

theorem PassView.channelCell_eq (ch : Channel) :
    v.channelCell lo hi ch =
      cellByte ((v.coversIn lo hi).any (fun c => !hasChannel c.run.value ch))
        ((v.coversIn lo hi).any (fun c => hasChannel c.run.value ch))
        ((v.coversIn lo hi).any (fun c => hasChannel c.run.mask ch))
        (decide (v.coversIn lo hi ≠ [])
          && decide ((((v.coversIn lo hi).map (fun c => c.share lo hi)).sum : Nat) < hi - lo))
        (min 15 (v.edges.countP (fun e => decide (lo ≤ (e.1 : Int) ∧ (e.1 : Int) < hi) && hasChannel e.2 ch))) := by
  rw [← foldl_add_eq_sum]
  rfl

/-- A channel cell carries what the covers of its ticks show (R142, R143). -/
theorem PassView.channelCell_isChannelCell (ch : Channel) : v.isChannelCell lo hi ch (v.channelCell lo hi ch) := by
  have hnonempty : v.coversIn lo hi ≠ [] ↔ ∃ c, c ∈ v.covers ∧ (c.first : Int) < hi ∧ lo ≤ (c.last : Int) := by
    simp only [← PassView.mem_coversIn]
    exact ⟨List.exists_mem_of_ne_nil _, fun ⟨_, hc⟩ => List.ne_nil_of_mem hc⟩
  rw [PassView.channelCell_eq]
  refine ⟨?_, ?_, ?_, ?_, ?_⟩
  · rw [cellByte_bit6 _ _ _ _ (cellCount_lt _), PassView.coversIn_any]
    simp only [Bool.not_eq_true']
    rfl
  · rw [cellByte_bit7 _ _ _ _ (cellCount_lt _), PassView.coversIn_any]
    rfl
  · rw [cellByte_bit5 _ _ _ _ (cellCount_lt _), PassView.coversIn_any]
    rfl
  · rw [cellByte_bit4 _ _ _ _ (cellCount_lt _), Bool.and_eq_true, decide_eq_true_eq, decide_eq_true_eq, hnonempty,
      Nat.cast_list_sum, List.map_map]
    rfl
  · rw [cellByte_count _ _ _ _ (cellCount_lt _), List.countP_eq_length_filter]
    rfl

/-- The copies of a slot. -/
def PassView.copiesOf (slot : Fin 4) : List (DecodeRecord × Nat) := v.copies.filter (fun c => c.1.slot == slot)

/-- A copy spans some of the ticks from `lo` to before `hi` (R144). -/
def spansTicks (c : DecodeRecord × Nat) : Bool := decide ((c.1.start : Int) < hi ∧ lo ≤ (c.2 : Int))

theorem PassView.copiesOf_any (slot : Fin 4) (p : DecodeRecord × Nat → Bool) :
    (v.copiesOf slot).any (fun c => spansTicks lo hi c && p c) = true ↔
      ∃ c, (c ∈ v.copies ∧ c.1.slot = slot ∧ (c.1.start : Int) < hi ∧ lo ≤ (c.2 : Int)) ∧ p c = true := by
  simp only [PassView.copiesOf, spansTicks, List.any_eq_true, List.mem_filter, Bool.and_eq_true, decide_eq_true_eq,
    beq_iff_eq, and_assoc]

theorem PassView.slotCell_held {slot : Fin 4} (h : v.copySet.getLsbD slot.val = true) :
    v.slotCell lo hi slot =
      cellByte ((v.copiesOf slot).any (fun c => spansTicks lo hi c && decide ((c.1.start : Int) < lo))) false
        ((v.copiesOf slot).any (fun c => spansTicks lo hi c && !c.1.errors.isEmpty)) false
        (min 15 ((v.copiesOf slot).countP (fun c => decide (lo ≤ (c.1.start : Int) ∧ (c.1.start : Int) < hi)))) := by
  unfold PassView.slotCell
  rw [h]
  rfl

/-- A decoder cell carries what the copies of its slot show (R144). -/
theorem PassView.slotCell_isSlotCell (slot : Fin 4) : v.isSlotCell lo hi slot (v.slotCell lo hi slot) := by
  refine ⟨fun hnone => ?_, fun hheld => ?_⟩
  · unfold PassView.slotCell
    rw [hnone]
    rfl
  · rw [PassView.slotCell_held v lo hi hheld]
    refine ⟨?_, ?_, ?_, ?_, ?_⟩
    · exact cellByte_bit7 _ _ _ _ (cellCount_lt _)
    · exact cellByte_bit4 _ _ _ _ (cellCount_lt _)
    · rw [cellByte_bit6 _ _ _ _ (cellCount_lt _), PassView.copiesOf_any]
      simp only [decide_eq_true_eq]
    · rw [cellByte_bit5 _ _ _ _ (cellCount_lt _), PassView.copiesOf_any]
      simp only [Bool.not_eq_true', ← Bool.not_eq_true, DecodeErrors.isEmpty_iff]
    · rw [cellByte_count _ _ _ _ (cellCount_lt _), PassView.copiesOf, List.countP_eq_length_filter, List.filter_filter]
      simp only [Bool.and_comm]

end Cells

/-! ## Columns of a post -/

/-- The cells of a column stand side by side (R145). -/
theorem PassView.column_length (v : PassView) (p : ReduceParams) (w : Int) (c : Nat) :
    (v.column p w c).length = p.cells := by
  rw [PassView.column, List.length_append, List.length_map, List.length_map, ReduceParams.cells]

/-- Lists of one length laid end to end: their joint length. -/
theorem length_flatMap_range {α : Type} {f : Nat → List α} {k : Nat} (hf : ∀ i, (f i).length = k) (n : Nat) :
    ((List.range n).flatMap f).length = n * k := by
  simp [List.length_flatMap, hf]

/-- Lists of one length laid end to end: place `j` of list `i`. -/
theorem getElem?_flatMap_range {α : Type} {f : Nat → List α} {k : Nat} (hf : ∀ i, (f i).length = k) {n i j : Nat}
    (hi : i < n) (hj : j < k) : ((List.range n).flatMap f)[i * k + j]? = (f i)[j]? := by
  induction n with
  | zero => omega
  | succ n ih =>
    rw [List.range_succ, List.flatMap_append, List.flatMap_singleton]
    rcases Nat.lt_succ_iff_lt_or_eq.1 hi with hlt | rfl
    · have hbefore : i * k + j < n * k :=
        calc i * k + j < i * k + k := Nat.add_lt_add_left hj _
          _ = (i + 1) * k := (Nat.succ_mul i k).symm
          _ ≤ n * k := Nat.mul_le_mul_right k hlt
      rw [List.getElem?_append_left (by rw [length_flatMap_range hf]; exact hbefore), ih hlt]
    · rw [List.getElem?_append_right (by rw [length_flatMap_range hf]; exact Nat.le_add_right _ _),
        length_flatMap_range hf, Nat.add_sub_cancel_left]

/-- A channel's cell stands in its column in the order of the channels (R145). -/
theorem PassView.column_channel (v : PassView) (p : ReduceParams) (w : Int) (c : Nat) {j : Nat} {ch : Channel}
    (h : (channelsOf p.channels)[j]? = some ch) :
    (v.column p w c)[j]? = some (v.channelCell (p.columnStart w c) (p.columnStart w (c + 1)) ch) := by
  obtain ⟨hlt, -⟩ := List.getElem?_eq_some_iff.1 h
  rw [PassView.column, List.getElem?_append_left (by rw [List.length_map]; exact hlt), List.getElem?_map, h]
  rfl

/-- A slot's cell stands in its column after the channels (R145). -/
theorem PassView.column_slot (v : PassView) (p : ReduceParams) (w : Int) (c : Nat) {j : Nat} {slot : Fin 4}
    (h : (slotsOf p.slots)[j]? = some slot) :
    (v.column p w c)[(channelsOf p.channels).length + j]?
      = some (v.slotCell (p.columnStart w c) (p.columnStart w (c + 1)) slot) := by
  rw [PassView.column, List.getElem?_append_right (by rw [List.length_map]; exact Nat.le_add_right _ _), List.length_map,
    Nat.add_sub_cancel_left, List.getElem?_map, h]
  rfl

section Post
variable (s : State) (r : Reduction)

/-- A cell of the next post of a pass, by column and place. -/
theorem State.nextPost_cell {i j : Nat} {b : Byte} (hi : i < (s.nextPost r).count)
    (h : ((s.passView r.snapshot).column r.params r.snapshot.window (s.columns.nextColumn + i))[j]? = some b) :
    (s.nextPost r).cells.getD (i * r.params.cells + j) 0 = b := by
  obtain ⟨hj, -⟩ := List.getElem?_eq_some_iff.1 h
  rw [PassView.column_length] at hj
  have hcell : (s.nextPost r).cells[i * r.params.cells + j]? = some b :=
    (getElem?_flatMap_range (fun _ => PassView.column_length _ _ _ _) hi hj).trans h
  rw [List.getD_eq_getElem?_getD, hcell, Option.getD_some]

/-- The next post of a pass is the one that the rules compose (R139, R145). -/
theorem State.nextPost_composes : r.composes s s.columns.nextColumn (s.nextPost r) where
  header := ⟨rfl, rfl, rfl, rfl, rfl⟩
  count := rfl
  last := rfl
  cells i hi := by
    intro width tick cell
    refine ⟨fun j ch hch => ?_, fun j slot hslot => ?_⟩
    · have hcell : cell j = _ := State.nextPost_cell s r hi (PassView.column_channel _ _ _ _ hch)
      rw [hcell]
      exact PassView.channelCell_isChannelCell _ _ _ ch
    · have hcell : cell ((channelsOf r.params.channels).length + j) = _ :=
        State.nextPost_cell s r hi (PassView.column_slot _ _ _ _ hslot)
      rw [hcell]
      exact PassView.slotCell_isSlotCell _ _ _ slot
  length := length_flatMap_range (fun _ => PassView.column_length _ _ _ _) _

end Post

/-- What a post is composed of does not depend on the phase, nor on the engine but through the first column (R145). -/
theorem Reduction.composes.after {s : State} {e : ColumnEngine} {r : Reduction} {first : Nat} {post : ColumnsPost}
    (h : r.composes (s.withColumns e) first post) : (r.after post).composes s first post :=
  ⟨h.header, h.count, h.last, h.cells, h.length⟩

/-- A pass begins with its first post composed (R138, R146, R151). -/
theorem State.beginPass_composes (s : State) (r : Reduction) :
    ∃ post, (r.after post).composes s 0 post
      ∧ s.beginPass r = s.withColumns ⟨some (r.after post), post.count, s.columns.outgoing ++ [post]⟩ := by
  refine ⟨_, (State.nextPost_composes (s.withColumns { s.columns with nextColumn := 0 }) r).after, ?_⟩
  unfold State.beginPass State.composeColumns
  dsimp only
  rw [show (State.nextPost (s.withColumns { s.columns with nextColumn := 0 }) r).first = 0 from rfl, Nat.zero_add]
  rfl

/-! ## The timers -/

section Timers
variable {s : State} (hr : s.resetHeld = false)
include hr

theorem exec_loadTimeout {x : Nat} (ht : s.orders.loadTimer = some x) (hx : x ≤ s.time.elapsed) :
    exec .loadTimeout s = .next s.loadExpired := by
  refine congrArg Host.Outcome.next (if_pos ?_)
  rw [State.loadGapDue, hr, ht, Option.any_some, decide_eq_true hx]
  rfl

theorem exec_batchTimeout (hon : s.streamer.on = true) (hbatch : s.streamer.batch = true)
    (hnot : s.streamer.ageReached = false) (haged : s.streamer.aged s.time.elapsed) :
    exec .batchTimeout s = .next (s.withStreamer { s.streamer with ageReached := true }) := by
  have hage : s.streamer.ageLimitReached s.time.elapsed = true := (s.streamer.ageLimitReached_iff _).2 haged
  have hdue : s.batchDue = true := by
    rw [State.batchDue, Streamer.ageDue, hr, hon, hbatch, hnot, hage]
    rfl
  refine congrArg Host.Outcome.next ((if_pos hdue).trans ?_)
  rw [Streamer.judgeAge, hage]

theorem exec_repeatTimerExpiry {r : Reduction} {x : Nat} (hcur : s.columns.current = some r)
    (hphase : r.phase = .waiting x) (hx : x ≤ s.time.elapsed) :
    exec .repeatTimerExpiry s = .next (s.repeatPass r) := by
  have hdue : s.repeatDue = some r := by
    rw [State.repeatDue, hr, hcur, if_neg Bool.false_ne_true, Option.bind_some, hphase]
    exact if_pos hx
  show execRepeatTimerExpiry s = _
  rw [execRepeatTimerExpiry, hdue]

end Timers

/-- A load that expires is abandoned with its notice (R94). -/
theorem State.loadExpired_some {s : State} {l : Load} (h : s.seq.load = some l) :
    s.loadExpired = s.abandonLoad.withNotices (fun n => n.setLoadTimeout ⟨l.owner, l.total, l.staged.length⟩) := by
  rw [State.loadExpired, h]

/-- The reduction that the repeat timer starts: the next pass, with a snapshot taken afresh (R151). -/
def State.nextReduction (s : State) (r : Reduction) : Reduction :=
  { r with pass := r.nextPass, snapshot := s.snapshot r.params r.snapshot.window }

theorem State.repeatPass_eq (s : State) (r : Reduction) : s.repeatPass r = s.beginPass (s.nextReduction r) := rfl

/-- Settles O46, timer by timer. -/
theorem elapsedTimersAct : Obligations.ElapsedTimersAct := by
  intro s hr
  refine ⟨fun x l ht hx hload => ?_, fun r rest hon hbatch hnot hqueue hage => ?_, fun r x hcur hphase hx => ?_⟩
  · rw [exec_loadTimeout hr ht hx, State.loadExpired_some hload]
    rfl
  · exact exec_batchTimeout hr hon hbatch hnot ⟨r, rest, hqueue, hage⟩
  · obtain ⟨post, hcomposes, hpass⟩ := s.beginPass_composes (s.nextReduction r)
    refine ⟨(s.nextReduction r).after post, post, rfl, rfl, rfl, rfl, hcomposes, rfl, ?_⟩
    rw [exec_repeatTimerExpiry hr hcur hphase hx, State.repeatPass_eq, hpass]
    rfl

end Sys2Proof.Machine

/-! SUPPORT. The three protocol decoders at a sample: the words they build, and what each phase of a slot does. -/

namespace Sys2Proof.Machine

/-! ## Words -/

/-- With LSB first, bit k of the number is the k-th bit that came. -/
theorem lsbFirstValue_testBit (bits : List Bool) (k : Nat) : (lsbFirstValue bits).testBit k = bits.getD k false := by
  induction bits generalizing k with
  | nil => exact Nat.zero_testBit k
  | cons b rest ih =>
    have hbit : lsbFirstValue (b :: rest) = Nat.bit b (lsbFirstValue rest) := (Nat.bit_val b _).symm
    rw [hbit]
    cases k with
    | zero => exact Nat.testBit_bit_zero b _
    | succ k => exact (Nat.testBit_bit_succ k b _).trans (ih k)

/-- The first bit counts highest when the bits are read backwards with the first bit lowest. -/
theorem msbFirstValue_eq (bits : List Bool) : msbFirstValue bits = lsbFirstValue bits.reverse :=
  List.foldr_reverse.symm

/-- A 16-bit word holds the low bits of its number. -/
theorem getLsbD_ofNat_of_lt {n k : Nat} (hk : k < 16) {b : Bool} (h : n.testBit k = b) :
    (BitVec.ofNat 16 n).getLsbD k = b := by
  rw [BitVec.getLsbD_ofNat, decide_eq_true hk, Bool.true_and, h]

/-- The value that a decoder makes of its bits has them in the slot's bit order (R108, R111). -/
theorem isWord_wordValue (msbFirst : Bool) (bits : List Bool) : isWord msbFirst bits (wordValue msbFirst bits) := by
  intro k hk
  cases msbFirst with
  | false => exact getLsbD_ofNat_of_lt hk (lsbFirstValue_testBit bits k)
  | true => rw [wordValue, if_pos rfl, if_pos rfl, msbFirstValue_eq, getLsbD_ofNat_of_lt hk (lsbFirstValue_testBit _ k)]

/-- The edge set holds a channel moving to a level when it rose to HIGH, or fell to LOW (R113). -/
theorem Sample.movesTo_eq (x : Sample) (ch : Channel) (level : Bool) :
    x.movesTo ch level = hasChannel (if level then x.rises else x.falls) ch := by
  cases level <;> rfl

/-! ## ASYNC -/

section Async
variable {c : AsyncSettings} {slot : Fin 4} {d : Slot} {x : Sample}

theorem AsyncSettings.step_hunting (h : d.phase = .hunting) :
    c.step slot d x =
      if hasChannel x.value c.data = c.idle then ({ d with idleSeen := true }, none)
      else if d.idleSeen then ({ d with phase := .inWord (.async x.index x.tick 0 []) }, none)
      else (d, none) := by
  simp only [AsyncSettings.step, h, Sample.level, beq_iff_eq]

/-- An ASYNC slot waits for a start bit as R105 says. -/
theorem AsyncSettings.hunts (c : AsyncSettings) : c.huntsWell := by
  intro slot d x h
  rw [AsyncSettings.step_hunting h]
  refine ⟨fun hidle => if_pos hidle, fun hmoved hseen => ?_, fun hmoved hseen => ?_⟩
  · rw [if_neg hmoved, if_pos hseen]
  · rw [if_neg hmoved, if_neg (Bool.eq_false_iff.1 hseen)]

variable {s0 s0Tick i : Nat} {read : List Bool} (h : d.phase = .inWord (.async s0 s0Tick i read))
include h

/-- A sample that is not the sample point of the bit awaited is not looked at (R106). -/
theorem AsyncSettings.step_between (hx : x.index ≠ c.samplePoint s0 i) : c.step slot d x = (d, none) := by
  simp only [AsyncSettings.step, h, if_neg hx]

/-- The start bit at its sample point (R107). -/
theorem AsyncSettings.step_startBit (hi : i = 0) (hx : x.index = c.samplePoint s0 i) :
    c.step slot d x =
      if hasChannel x.value c.data = c.idle then ({ d with phase := .hunting, idleSeen := true }, none)
      else ({ d with phase := .inWord (.async s0 s0Tick 1 []) }, none) := by
  simp only [AsyncSettings.step, h, if_pos hx, if_pos hi, Sample.level, beq_iff_eq]

/-- A bit of the frame at its sample point, which is not the last (R108). -/
theorem AsyncSettings.step_frameBit (hi : i ≠ 0) (hx : x.index = c.samplePoint s0 i) (hlast : i ≠ c.lastPosition) :
    c.step slot d x =
      ({ d with phase := .inWord (.async s0 s0Tick (i + 1) (read ++ [hasChannel x.value c.data == c.idle])) }, none) := by
  simp only [AsyncSettings.step, h, if_pos hx, if_neg hi, if_neg hlast, Sample.level]

/-- The last bit of the frame completes its record (R108, R109). -/
theorem AsyncSettings.step_lastBit (hi : i ≠ 0) (hx : x.index = c.samplePoint s0 i) (hlast : i = c.lastPosition) :
    c.step slot d x =
      ({ d with phase := .hunting, idleSeen := hasChannel x.value c.data == c.idle },
        some (c.frame slot s0Tick x.tick (read ++ [hasChannel x.value c.data == c.idle]))) := by
  simp only [AsyncSettings.step, h, if_pos hx, if_neg hi, if_pos hlast, Sample.level]

end Async

section Frame
variable (c : AsyncSettings) (slot : Fin 4) (start stop : Nat) {bits : List Bool}

/-- What every record of a frame holds, DATA and BREAK alike (R99). -/
theorem AsyncSettings.frame_common (bits : List Bool) :
    let r := c.frame slot start stop bits
    r.slot = slot ∧ r.bits = c.bits ∧ r.runCount = none ∧ r.start = start
      ∧ r.duration = min (stop - start) (2 ^ 32 - 1) := by
  dsimp only [AsyncSettings.frame]
  split <;> exact ⟨rfl, rfl, rfl, rfl, rfl⟩

/-- A frame without an idle bit is a BREAK (R109). -/
theorem AsyncSettings.frame_break (h : ∀ b ∈ bits, b = false) :
    c.frame slot start stop bits = ⟨slot, .brk, 0, c.bits, none, start, durationOf start stop, {}⟩ := by
  have hall : bits.all (!·) = true := List.all_eq_true.2 (fun b hb => by rw [h b hb]; rfl)
  exact if_pos hall

/-- The parity bit stands after the data bits, and the stop bits after it (R104). -/
theorem AsyncSettings.stopBits_eq (bits : List Bool) :
    (if c.parity = .none then bits.drop c.bits else (bits.drop c.bits).drop 1)
      = bits.drop (c.bits + if c.parity = .none then 0 else 1) := by
  split
  · rfl
  · rw [List.drop_drop]

/-- A frame with an idle bit is a DATA record with the errors found (R108). -/
theorem AsyncSettings.frame_data (h : ¬∀ b ∈ bits, b = false) :
    c.frame slot start stop bits =
      ⟨slot, .data, wordValue c.msbFirst (bits.take c.bits), c.bits, none, start, durationOf start stop,
        { parity := c.parityWrong (bits.take c.bits) (bits.getD c.bits false)
          framing := (bits.drop (c.bits + if c.parity = .none then 0 else 1)).any (!·) }⟩ := by
  have hsome : ¬bits.all (!·) = true := fun hall =>
    h (fun b hb => (Bool.not_eq_true' b).mp (List.all_eq_true.1 hall b hb))
  have hparity : (bits.drop c.bits).headD false = bits.getD c.bits false := by
    rw [List.headD_eq_head?_getD, List.head?_drop, List.getD_eq_getElem?_getD]
  rw [← c.stopBits_eq, ← hparity]
  exact if_neg hsome

end Frame

/-- A number is odd, told in the two ways of the parity rule. -/
theorem bne_mod_two (n : Nat) : (n % 2 != 0) = (n % 2 == 1) ∧ (n % 2 != 1) = (n % 2 == 0) := by
  rcases Nat.mod_two_eq_zero_or_one n with h | h <;> rw [h] <;> decide

/-- An ASYNC frame runs and ends as R106, R108 and R109 say. -/
theorem AsyncSettings.frames (c : AsyncSettings) : c.framesWell := by
  intro slot d x s0 s0Tick i read h hi
  refine ⟨AsyncSettings.step_between h, AsyncSettings.step_frameBit h hi, fun hx hlast => ?_⟩
  refine ⟨_, AsyncSettings.step_lastBit h hi hx hlast, ?_⟩
  generalize read ++ [hasChannel x.value c.data == c.idle] = bits
  obtain ⟨hslot, hbits, hrun, hstart, hduration⟩ := c.frame_common slot s0Tick x.tick bits
  refine ⟨hslot, hbits, hrun, hstart, hduration, fun hbreak => ?_, fun hdata => ?_⟩
  · rw [c.frame_break slot s0Tick x.tick hbreak]
    exact ⟨rfl, rfl, rfl⟩
  · rw [c.frame_data slot s0Tick x.tick hdata]
    refine ⟨rfl, isWord_wordValue _ _, congrArg (fun wrong => DecodeErrors.mk wrong _ _ _ _) ?_⟩
    obtain ⟨heven, hodd⟩ := bne_mod_two ((bits.take c.bits).countP id + (bits.getD c.bits false).toNat)
    unfold AsyncSettings.parityWrong
    cases c.parity with
    | none | mark | space => exact rfl
    | even => exact heven
    | odd => exact hodd

/-- Settles O57: the start bit's three outcomes, then the slot's waiting and the rest of the frame. -/
theorem falseStartCompletesNothing : Obligations.FalseStartCompletesNothing := by
  refine ⟨fun c slot d x s0 s0Tick h => ?_, fun c => ⟨c.hunts, c.frames⟩⟩
  have hpoint : c.samplePoint s0 0 = s0 + c.period / 32 := by
    rw [AsyncSettings.samplePoint, Nat.mul_zero, Nat.zero_add, Nat.one_mul]
  rw [← hpoint]
  refine ⟨AsyncSettings.step_between h, fun hx hidle => ?_, fun hx hmoved => ?_⟩
  · rw [AsyncSettings.step_startBit h rfl hx, if_pos hidle]
  · rw [AsyncSettings.step_startBit h rfl hx, if_neg hmoved]

end Sys2Proof.Machine

/-! SUPPORT. CLOCKED and STROBED slots at a sample, and the sample at which an INTERLOCKED word times out. -/

namespace Sys2Proof.Machine

/-! ## CLOCKED -/

/-- The word that a CLOCKED slot adds a bit to: the one in progress, or an empty one that begins now (R111). -/
def Slot.clockedWordAt (d : Slot) (x : Sample) : Nat × List Bool := d.clockedWord.getD (x.tick, [])

/-- A CLOCKED word is in progress when the phase says so. -/
theorem Slot.clockedWord_eq_some {d : Slot} {start : Nat} {held : List Bool} :
    d.clockedWord = some (start, held) ↔ d.phase = .inWord (.clocked start held) := by
  unfold Slot.clockedWord
  generalize d.phase = p
  match p with
  | .inWord (.clocked _ _) => simp
  | .stopped | .hunting | .recovering | .inWord (.async _ _ _ _) | .inWord (.strobed _ _ _) => exact ⟨nofun, nofun⟩

section Clocked
variable {c : ClockedSettings} {slot : Fin 4} {d : Slot} {x : Sample} (h : d.phase ≠ .stopped)
include h

/-- Select going inactive completes the word in progress with SHORT (R112). -/
theorem ClockedSettings.step_short (hs : c.selected x = false) {start : Nat} {held : List Bool}
    (hw : d.phase = .inWord (.clocked start held)) :
    c.step slot d x = ({ d with phase := .hunting }, some (c.record slot start x.tick held true)) := by
  rw [ClockedSettings.step, if_neg h, hs, Slot.clockedWord_eq_some.2 hw]
  rfl

/-- Without a word in progress an inactive select does nothing (R111). -/
theorem ClockedSettings.step_unselected (hs : c.selected x = false)
    (hw : ¬∃ start held, d.phase = .inWord (.clocked start held)) : c.step slot d x = (d, none) := by
  have hnone : d.clockedWord = none :=
    Option.eq_none_iff_forall_ne_some.2 (fun w hd => hw ⟨w.1, w.2, Slot.clockedWord_eq_some.1 hd⟩)
  rw [ClockedSettings.step, if_neg h, hs, hnone]
  rfl

variable (hs : c.selected x = true)
include hs

theorem ClockedSettings.step_noEdge (he : x.movesTo c.clock c.rising = false) : c.step slot d x = (d, none) := by
  rw [Sample.movesTo] at he
  rw [ClockedSettings.step, if_neg h, hs, he]
  rfl

/-- A clock edge adds the data bit to the word, and the last bit completes it (R111). -/
theorem ClockedSettings.step_edge (he : x.movesTo c.clock c.rising = true) :
    let word := d.clockedWordAt x
    let bits := word.2 ++ [x.level c.data]
    c.step slot d x =
      if bits.length = c.wordLength then
        ({ d with phase := .hunting }, some (c.record slot word.1 x.tick bits false))
      else ({ d with phase := .inWord (.clocked word.1 bits) }, none) := by
  rw [Sample.movesTo] at he
  rw [ClockedSettings.step, if_neg h, hs, he]
  rfl

end Clocked

/-- A CLOCKED slot handles a sample as R111 and R112 say. -/
theorem ClockedSettings.frames (c : ClockedSettings) : c.framesWell := by
  intro slot d x h selected edge word bits made
  have hword : word = d.clockedWordAt x := by
    dsimp only [word]
    rw [Slot.clockedWordAt, Slot.clockedWord]
    generalize d.phase = p
    match p with
    | .stopped | .hunting | .recovering | .inWord (.async _ _ _ _) | .inWord (.clocked _ _)
    | .inWord (.strobed _ _ _) => rfl
  have hedge : edge = x.movesTo c.clock c.rising := (x.movesTo_eq _ _).symm
  have hmade (held : List Bool) (short : Bool) : made held short (c.record slot word.1 x.tick held short) :=
    ⟨_, isWord_wordValue _ _, rfl⟩
  refine ⟨fun hs hw => ?_, ClockedSettings.step_unselected h, fun hs he => ?_, fun hs he hlen => ?_, fun hs he hlen => ?_⟩
  · obtain ⟨start, held, hw⟩ := hw
    have heq : word = (start, held) := by
      rw [hword, Slot.clockedWordAt, Slot.clockedWord_eq_some.2 hw, Option.getD_some]
    refine ⟨_, ClockedSettings.step_short h hs hw, ?_⟩
    rw [heq] at hmade ⊢
    exact hmade held true
  · exact ClockedSettings.step_noEdge h hs (hedge ▸ he)
  · dsimp only [bits] at hlen ⊢
    rw [hword] at hlen ⊢
    exact (ClockedSettings.step_edge h hs (hedge ▸ he)).trans (if_neg hlen)
  · refine ⟨_, ?_, hmade bits false⟩
    dsimp only [bits] at hlen ⊢
    rw [hword] at hlen ⊢
    exact (ClockedSettings.step_edge h hs (hedge ▸ he)).trans (if_pos hlen)

/-! ## STROBED -/

/-- Run prefixing is stated as the slot does it (R118). -/
theorem StrobedSettings.deliver_eq_hands (c : StrobedSettings) (d : Slot) (r : DecodeRecord) :
    c.deliver d r = c.hands d r := by
  simp only [StrobedSettings.deliver, StrobedSettings.hands, DecodeErrors.isEmpty_iff, Bool.not_eq_true']

/-- The latched word is the data range with the base channel as bit 0 (R113). -/
theorem StrobedSettings.latch_bits (c : StrobedSettings) (x : Sample) {k : Nat} (hk : k < 16) :
    (c.latch x).1.getLsbD k = (decide (k < c.width) && x.value.getLsbD (c.base.val + k)) := by
  refine getLsbD_ofNat_of_lt hk ?_
  rw [Nat.testBit_mod_two_pow, Nat.testBit_div_two_pow, Nat.add_comm, BitVec.testBit_toNat]

section Strobed
variable {c : StrobedSettings} {slot : Fin 4} {d : Slot} {x : Sample}

section Hunting
variable (h : d.phase = .hunting)
include h

/-- A capture that begins with the strobe active waits for its end (R114). -/
theorem StrobedSettings.step_activeAtFirst (hx : x.index = 0 ∧ x.level c.strobe.ch = c.strobe.active) :
    c.step slot d x = ({ d with phase := .recovering }, none) := by
  simp only [StrobedSettings.step, h, if_pos hx]

theorem StrobedSettings.step_hunting (hx : ¬(x.index = 0 ∧ x.level c.strobe.ch = c.strobe.active)) :
    c.step slot d x = if x.movesTo c.strobe.ch c.strobe.active then c.begin slot d x else (d, none) := by
  simp only [StrobedSettings.step, h, if_neg hx]

end Hunting

theorem StrobedSettings.step_recovering (h : d.phase = .recovering) :
    c.step slot d x =
      (if x.movesTo c.strobe.ch (!c.strobe.active) then { d with phase := .hunting } else d, none) := by
  simp only [StrobedSettings.step, h]
  split <;> rfl

/-- A TRAILING or PULSE word is latched at the strobe's end (R115, R116). -/
theorem StrobedSettings.step_strobing {start index : Nat} (h : d.phase = .inWord (.strobed start index none)) :
    c.step slot d x =
      if x.movesTo c.strobe.ch (!c.strobe.active) then
        c.deliver { d with phase := .hunting }
          (c.record slot start x.tick (c.latch x)
            { runt := decide (c.handshake = .pulse ∧ x.index - index < c.minWidth) })
      else (d, none) := by
  simp only [StrobedSettings.step, h, Bool.decide_and, Bool.beq_eq_decide_eq]

section Waiting
variable {start index : Nat} {word : BitVec 16 × RecKind} (h : d.phase = .inWord (.strobed start index (some word)))
include h

theorem StrobedSettings.step_waiting : c.step slot d x = c.wait slot d x start index word := by
  simp only [StrobedSettings.step, h]

/-- The acknowledge completes an INTERLOCKED word (R117). -/
theorem StrobedSettings.step_acknowledged (ha : c.ackEdge x = true) (hx : x.index ≤ index + c.timeout) :
    c.step slot d x = c.deliver { d with phase := c.restPhase x } (c.record slot start x.tick word {}) := by
  rw [StrobedSettings.step_waiting h, StrobedSettings.wait, ha, decide_eq_true hx]
  rfl

/-- The timeout completes it with STALL (R117). -/
theorem StrobedSettings.step_timedOut (ha : ¬(c.ackEdge x = true ∧ x.index ≤ index + c.timeout))
    (hx : index + c.timeout ≤ x.index) :
    c.step slot d x =
      c.deliver { d with phase := c.restPhase x } (c.record slot start x.tick word { stall := true }) := by
  rw [← decide_eq_true_iff (p := x.index ≤ _), ← Bool.and_eq_true] at ha
  rw [StrobedSettings.step_waiting h, StrobedSettings.wait, if_neg ha, if_pos hx]

/-- Before either, a new strobe edge completes it with STALL and begins the next (R117). -/
theorem StrobedSettings.step_unanswered (ha : c.ackEdge x = false) (hx : x.index < index + c.timeout) :
    c.step slot d x =
      if x.movesTo c.strobe.ch c.strobe.active then
        c.deliver { d with phase := .inWord (.strobed x.tick x.index (some (c.latch x))) }
          (c.record slot start x.tick word { stall := true })
      else (d, none) := by
  rw [StrobedSettings.step_waiting h, StrobedSettings.wait, ha, Bool.false_and, if_neg Bool.false_ne_true,
    if_neg (Nat.not_le.2 hx)]

end Waiting

end Strobed

/-- A STROBED slot handles a sample as R113 to R118 say. -/
theorem StrobedSettings.frames (c : StrobedSettings) : c.framesWell := by
  intro slot d x level toActive toRest acknowledged timeout kind rest word
  have hactive : x.movesTo c.strobe.ch c.strobe.active = toActive := x.movesTo_eq _ _
  have hrest : x.movesTo c.strobe.ch (!c.strobe.active) = toRest := by
    dsimp only [toRest]
    rw [Sample.movesTo_eq]
    cases c.strobe.active <;> rfl
  have hack : c.ackEdge x = acknowledged := by
    dsimp only [acknowledged]
    unfold StrobedSettings.ackEdge
    cases c.ack with
    | none => rfl
    | some a => exact x.movesTo_eq _ _
  refine ⟨(c.latch x).1, fun k hk => c.latch_bits x hk, fun h h0 hl => ?_, fun h hx ht => ?_, fun h hx ht => ?_, fun h => ?_,
    fun start index h => ?_, fun start index w h => ⟨fun ha hx => ?_, fun ha hx => ?_, fun ha hx ht => ?_, fun ha hx ht => ?_⟩⟩
  · exact StrobedSettings.step_activeAtFirst h ⟨h0, hl⟩
  · rw [StrobedSettings.step_hunting h hx, hactive, ht, if_neg Bool.false_ne_true]
  · rw [StrobedSettings.step_hunting h hx, hactive, ht, if_pos rfl, StrobedSettings.begin]
    cases c.handshake with
    | leading => exact c.deliver_eq_hands _ _
    | trailing | pulse | interlocked => rfl
  · rw [StrobedSettings.step_recovering h, hrest]
  · rw [StrobedSettings.step_strobing h, hrest, c.deliver_eq_hands]
    rfl
  · rw [StrobedSettings.step_acknowledged h (hack ▸ ha) hx, c.deliver_eq_hands]
    rfl
  · rw [StrobedSettings.step_timedOut h (hack ▸ ha) hx, c.deliver_eq_hands]
    rfl
  · rw [StrobedSettings.step_unanswered h (hack ▸ ha) hx, hactive, ht, if_pos rfl, c.deliver_eq_hands]
    rfl
  · rw [StrobedSettings.step_unanswered h (hack ▸ ha) hx, hactive, ht, if_neg Bool.false_ne_true]

/-! ## The timeout of an INTERLOCKED word -/

/-- What a STROBED slot does at a sample is its kind's to say (R100). -/
theorem Slot.handles_strobed {d : Slot} {c : StrobedSettings} (h : d.kind = .strobed c) (slot : Fin 4) (x : Sample) :
    d.handles slot x = c.step slot d x := by
  rw [Slot.handles, h]

/-- A record that a slot completes at a sample is one of those that the bank completes (R101). -/
theorem DecoderBank.mem_completed (b : DecoderBank) {x : Sample} {slot : Fin 4} {d : Slot} {r : DecodeRecord}
    (h : (b.slots.get slot).handles slot x = (d, some r)) : r ∈ b.completed x := by
  rw [(b.handlesWell x).completed, List.mem_filterMap]
  refine ⟨slot, ?_, by rw [h]⟩
  fin_cases slot <;> decide

/-- INTERLOCKED_TIMEOUT takes the grid sample at which a word of the slot completes with STALL (R117, log 7). -/
theorem exec_interlockedTimeout {s : State} {slot : Fin 4} (hnext : s.timeoutNext slot = true)
    (hgrid : s.gridDue = true) {r : DecodeRecord} (hmem : r ∈ s.decoders.completed s.readSample) (hslot : r.slot = slot)
    (hstall : r.errors.stall = true) : exec (.interlockedTimeout slot) s = .next (s.takeSample false) := by
  have hstalls : s.stallsNow slot = true :=
    List.any_eq_true.2 ⟨r, hmem, by rw [hslot, hstall, beq_self_eq_true, Bool.true_and]⟩
  have hdue : s.dueSample = some (s.takeSample false) := if_pos hgrid
  show execInterlockedTimeout slot s = _
  rw [execInterlockedTimeout, hnext, hstalls, hdue]
  rfl

/-- Settles O42: the sample due on the grid is the one at latch index + T, and the slot completes its word there. -/
theorem interlockedTimeoutStalls : Obligations.InterlockedTimeoutStalls := by
  refine ⟨?_, ClockedSettings.frames, StrobedSettings.frames⟩
  intro s slot c a start index word hr hc hm hd hl hkind hack hprefix hphase hindex hedge
  have htimeout : a.timeout = c.timeout := by rw [StrobedSettings.timeout, hack]
  rw [htimeout] at hindex
  have hnoAck : ¬c.ackEdge s.readSample = true := by
    rw [StrobedSettings.ackEdge, hack]
    exact Bool.eq_false_iff.1 hedge
  have hreached : index + c.timeout ≤ s.readSample.index := hindex.ge
  have hnext : s.timeoutNext slot = true := by
    rw [State.timeoutNext, hkind, hphase]
    exact decide_eq_true hindex
  have hstep := StrobedSettings.step_timedOut (slot := slot) hphase (fun h => hnoAck h.1) hreached
  rw [← Slot.handles_strobed hkind, c.deliver_eq_hands, StrobedSettings.hands, if_pos hprefix] at hstep
  have hmem := s.decoders.mem_completed hstep
  exact ⟨_, exec_interlockedTimeout hnext (s.gridDue_iff.2 ⟨hr, hc, hm, hd, hl⟩) hmem rfl rfl,
    State.takeSample_handles false hc, hmem⟩

end Sys2Proof.Machine

/-! SUPPORT. What a SET_DECODER carries: the fields that R103 takes, and the slot that they give. -/

namespace Sys2Proof.Machine

/-! ## Codes and fields -/

theorem parityOf_isSome (n : Nat) : (parityOf n).isSome = true ↔ n ≤ 4 := by
  match n with
  | 0 | 1 | 2 | 3 | 4 => simp [parityOf]
  | n + 5 => simp [parityOf]

theorem stopBitsOf_isSome (n : Nat) : (stopBitsOf n).isSome = true ↔ n ≤ 2 := by
  match n with
  | 0 | 1 | 2 => simp [stopBitsOf]
  | n + 3 => simp [stopBitsOf]

theorem handshakeOf_isSome (n : Nat) : (handshakeOf n).isSome = true ↔ n ≤ 3 := by
  match n with
  | 0 | 1 | 2 | 3 => simp [handshakeOf]
  | n + 4 => simp [handshakeOf]

/-- Handshake code 3 is INTERLOCKED (R170). -/
theorem handshakeOf_interlocked {n : Nat} {k : Handshake} (h : handshakeOf n = some k) : k = .interlocked ↔ n = 3 := by
  match n with
  | 0 | 1 | 2 | 3 => cases h; decide
  | n + 4 => cases h

theorem within_eq_some {lo hi n m : Nat} : within lo hi n = some m ↔ (lo ≤ n ∧ n ≤ hi) ∧ m = n := by
  rw [within, Option.ite_none_right_eq_some, Option.some.injEq, eq_comm (a := n)]

/-- A field of two bytes is below 65,536. -/
theorem paramField_two_lt (o : OrderPost) (n : Nat) : paramField o n 2 < 65536 := by
  unfold paramField
  match o.params.drop (n - 2) with
  | [] => decide
  | [a] =>
    have ha : a.toNat < 256 := a.isLt
    simp only [List.take, beNat, List.foldl]
    omega
  | a :: b :: _ =>
    have ha : a.toNat < 256 := a.isLt
    have hb : b.toNat < 256 := b.isLt
    simp only [List.take, beNat, List.foldl]
    omega

/-- A byte with a presence bit: the channel in its low bits, bits 6 and 5 zero, presence in bit 7 (R170). -/
theorem presenceByte_bits (b : Byte) :
    (bitsOf b 5 2 = 0 ∧ b.toNat % 32 < 16 ↔ b.toNat % 128 < 16) ∧ bitsOf b 0 5 = b.toNat % 32
      ∧ (bitsOf b 7 1 = 1 ↔ 128 ≤ b.toNat) := by
  have hb : b.toNat < 256 := b.isLt
  unfold bitsOf
  omega

/-- A byte that holds a channel, present or absent, names it when it is present (R170, log 18). -/
theorem optionalChannelOf_eq_some {o : OrderPost} {n : Nat} {x : Option Channel} :
    optionalChannelOf (paramByte o n) = some x ↔ optionalFits o n ∧ x.map Fin.val = namedChannel o n := by
  obtain ⟨hfits, hchannel, hpresent⟩ := presenceByte_bits (paramByte o n)
  unfold optionalFits namedChannel paramNat
  simp only [optionalChannelOf, Option.ite_none_left_eq_some, not_not, Option.map_eq_some_iff, channelOf_eq_some,
    hchannel, hpresent, ← hfits]
  constructor
  · rintro ⟨hzero, ch, hch, rfl⟩
    refine ⟨⟨hzero, hch ▸ ch.isLt⟩, ?_⟩
    split
    · rw [Option.map_some, hch]
    · rfl
  · rintro ⟨⟨hzero, hlt⟩, hx⟩
    refine ⟨hzero, ⟨_, hlt⟩, rfl, ?_⟩
    refine Option.map_injective Fin.val_injective (Eq.trans ?_ hx.symm)
    split <;> rfl

/-! ## ASYNC -/

/-- The settings are those that the bytes of an ASYNC order hold (R104, R170). -/
def asyncReads (o : OrderPost) (c : AsyncSettings) : Prop :=
  c.data.val = paramNat o 5 ∧ c.idle = decide (paramNat o 6 = 1) ∧ c.bits = paramNat o 7
    ∧ parityOf (paramNat o 8) = some c.parity ∧ stopBitsOf (paramNat o 9) = some c.stop
    ∧ c.msbFirst = decide (paramNat o 10 = 1) ∧ c.period = paramField o 11 3

/-- An ASYNC order that gives settings keeps R103, and gives what its bytes hold. -/
theorem asyncOf_reads {o : OrderPost} {c : AsyncSettings} (h : asyncOf o = some c) : asyncFits o ∧ asyncReads o c := by
  simp only [asyncOf, Option.bind_eq_bind, Option.bind_eq_some_iff, channelOf_eq_some, levelOf_eq_some,
    within_eq_some] at h
  obtain ⟨data, hdata, idle, ⟨hidle, rfl⟩, bits, ⟨⟨hlo, hhi⟩, rfl⟩, parity, hparity, stop, hstop, order, ⟨horder, rfl⟩,
    period, ⟨⟨hlong, hshort⟩, rfl⟩, h⟩ := h
  cases h
  exact ⟨⟨hdata ▸ data.isLt, hidle, hlo, hhi, (parityOf_isSome _).1 (Option.isSome_iff_exists.2 ⟨_, hparity⟩),
    (stopBitsOf_isSome _).1 (Option.isSome_iff_exists.2 ⟨_, hstop⟩), horder, hlong, hshort⟩,
    hdata, rfl, rfl, hparity, hstop, rfl, rfl⟩

/-- ASYNC fields that keep R103 give settings. -/
theorem asyncOf_fits {o : OrderPost} (h : asyncFits o) : ∃ c, asyncOf o = some c := by
  obtain ⟨hdata, hidle, hlo, hhi, hparity, hstop, horder, hlong, hshort⟩ := h
  obtain ⟨parity, hparity⟩ := Option.isSome_iff_exists.1 ((parityOf_isSome _).2 hparity)
  obtain ⟨stop, hstop⟩ := Option.isSome_iff_exists.1 ((stopBitsOf_isSome _).2 hstop)
  simp only [asyncOf, Option.bind_eq_bind, Option.bind_eq_some_iff, channelOf_eq_some, levelOf_eq_some, within_eq_some]
  exact ⟨_, ⟨_, hdata⟩, rfl, _, ⟨hidle, rfl⟩, _, ⟨⟨hlo, hhi⟩, rfl⟩, parity, hparity, stop, hstop, _, ⟨horder, rfl⟩, _,
    ⟨⟨hlong, hshort⟩, rfl⟩, rfl⟩

/-! ## Channels that a byte with a presence bit names -/

/-- A byte that holds a channel names one, or none (R170). -/
theorem exists_channel_named {o : OrderPost} {n : Nat} (h : optionalFits o n) :
    ∃ x : Option Channel, x.map Fin.val = namedChannel o n := by
  unfold namedChannel
  split
  · refine ⟨some ⟨paramNat o n % 32, ?_⟩, rfl⟩
    unfold optionalFits at h
    omega
  · exact ⟨none, rfl⟩

section Named
variable {o : OrderPost} {n : Nat} {x : Option Channel} (h : x.map Fin.val = namedChannel o n)
include h

theorem eq_some_iff_named {ch : Channel} {m : Nat} (hch : ch.val = m) : x = some ch ↔ namedChannel o n = some m := by
  rw [← h, ← hch, ← Option.map_some]
  exact (Option.map_injective Fin.val_injective).eq_iff.symm

theorem eq_none_iff_named : x = none ↔ namedChannel o n = none := by
  rw [← h, Option.map_eq_none_iff]

/-- What is said of every named channel is said of the channel read. -/
theorem forall_named_iff {p : Nat → Prop} : (∀ a, namedChannel o n = some a → p a) ↔ ∀ ch, x = some ch → p ch.val := by
  rw [← h]
  simp only [Option.map_eq_some_iff]
  exact ⟨fun hall ch hx => hall _ ⟨ch, hx, rfl⟩, fun hall a ⟨ch, hx, ha⟩ => ha ▸ hall ch hx⟩

end Named

/-! ## CLOCKED -/

/-- The settings are those that the bytes of a CLOCKED order hold (R110, R170). -/
def clockedReads (o : OrderPost) (c : ClockedSettings) : Prop :=
  c.clock.val = paramNat o 5 ∧ c.rising = decide (paramNat o 6 = 0) ∧ c.data.val = paramNat o 7
    ∧ c.select.map (fun l => (l.ch.val, l.active)) = (namedChannel o 8).map (fun ch => (ch, decide (paramNat o 9 = 1)))
    ∧ c.wordLength = paramNat o 10 ∧ c.msbFirst = decide (paramNat o 11 = 1)

/-- The clock edge byte is 0 for RISING and 1 for FALLING (R170). -/
theorem not_decide_eq_one {n : Nat} (h : n ≤ 1) : (!decide (n = 1)) = decide (n = 0) := by
  match n with
  | 0 | 1 => rfl
  | n + 2 => omega

/-- A CLOCKED order that gives settings keeps R103, and gives what its bytes hold. -/
theorem clockedOf_reads {o : OrderPost} {c : ClockedSettings} (h : clockedOf o = some c) :
    clockedFits o ∧ clockedReads o c := by
  simp only [clockedOf, Option.bind_eq_bind, Option.bind_eq_some_iff, channelOf_eq_some, levelOf_eq_some, within_eq_some,
    optionalChannelOf_eq_some, Option.ite_none_left_eq_some, not_or] at h
  obtain ⟨clock, hclock, falling, ⟨hfalling, rfl⟩, data, hdata, select, ⟨hsel, hselect⟩, active, ⟨hactive, rfl⟩,
    bits, ⟨⟨hlo, hhi⟩, rfl⟩, order, ⟨horder, rfl⟩, ⟨hne, hnoClock, hnoData⟩, h⟩ := h
  rw [Fin.ext_iff, hdata, hclock] at hne
  rw [eq_some_iff_named hselect hclock] at hnoClock
  rw [eq_some_iff_named hselect hdata] at hnoData
  cases h
  refine ⟨⟨hclock ▸ clock.isLt, hfalling, hdata ▸ data.isLt, hsel, hactive, hlo, hhi, horder, hne, hnoClock, hnoData⟩,
    hclock, not_decide_eq_one hfalling, hdata, ?_, rfl, rfl⟩
  rw [← hselect, Option.map_map, Option.map_map]
  rfl

/-- CLOCKED fields that keep R103 give settings. -/
theorem clockedOf_fits {o : OrderPost} (h : clockedFits o) : ∃ c, clockedOf o = some c := by
  obtain ⟨hclock, hfalling, hdata, hsel, hactive, hlo, hhi, horder, hne, hnoClock, hnoData⟩ := h
  obtain ⟨select, hselect⟩ := exists_channel_named hsel
  simp only [clockedOf, Option.bind_eq_bind, Option.bind_eq_some_iff, channelOf_eq_some, levelOf_eq_some, within_eq_some,
    optionalChannelOf_eq_some, Option.ite_none_left_eq_some, not_or]
  exact ⟨_, ⟨_, hclock⟩, rfl, _, ⟨hfalling, rfl⟩, ⟨_, hdata⟩, rfl, select, ⟨hsel, hselect⟩, _, ⟨hactive, rfl⟩,
    _, ⟨⟨hlo, hhi⟩, rfl⟩, _, ⟨horder, rfl⟩,
    ⟨fun e => hne (Fin.mk.inj e), fun e => hnoClock ((eq_some_iff_named hselect rfl).1 e),
      fun e => hnoData ((eq_some_iff_named hselect rfl).1 e)⟩, rfl⟩

/-! ## STROBED -/

/-- The settings are those that the bytes of a STROBED order hold (R113, R170). -/
def strobedReads (o : OrderPost) (c : StrobedSettings) : Prop :=
  c.base.val = paramNat o 5 ∧ c.width = paramNat o 6 ∧ c.strobe.ch.val = paramNat o 7
    ∧ c.strobe.active = decide (paramNat o 8 = 1) ∧ handshakeOf (paramNat o 9) = some c.handshake
    ∧ c.minWidth = paramField o 10 2
    ∧ c.ack.map (fun a => (a.line.ch.val, a.line.active, a.timeout))
        = (namedChannel o 12).map (fun ch => (ch, decide (paramNat o 13 = 1), paramField o 14 2))
    ∧ c.selector.map Fin.val = namedChannel o 16 ∧ c.runPrefixing = decide (paramNat o 17 = 1)

/-- A channel that an order may name lies in the data range, or is another of the order's channels. -/
def clashes (base : Channel) (width : Nat) (x : Option Channel) (others : List (Option Channel)) : Bool :=
  match x with
  | none => false
  | some ch => inRange base width ch || others.any (fun y => y == some ch)

/-- What R103 asks of the channels, the handshake and the timeout of a STROBED order together, as the model looks at them. -/
def strobedAllowed (o : OrderPost) (base strobe : Channel) (handshake : Handshake) (ack selector : Option Channel) : Prop :=
  ¬15 < base.val + paramNat o 6 - 1 ∧ ¬inRange base (paramNat o 6) strobe = true
    ∧ ¬clashes base (paramNat o 6) ack [some strobe] = true ∧ ¬clashes base (paramNat o 6) selector [some strobe, ack] = true
    ∧ ¬(handshake = .interlocked ∧ ack = none) ∧ ¬(ack ≠ none ∧ paramField o 14 2 = 0)

/-- The same, in the bytes of the order (R103). -/
def strobedRules (o : OrderPost) : Prop :=
  paramNat o 5 + paramNat o 6 ≤ 16 ∧ ¬inDataRange o (paramNat o 7)
    ∧ (∀ a, namedChannel o 12 = some a → a ≠ paramNat o 7 ∧ ¬inDataRange o a ∧ paramField o 14 2 ≠ 0)
    ∧ (∀ c, namedChannel o 16 = some c → c ≠ paramNat o 7 ∧ namedChannel o 12 ≠ some c ∧ ¬inDataRange o c)
    ∧ (paramNat o 9 = 3 → namedChannel o 12 ≠ none)

section Rules
variable {o : OrderPost} {base strobe : Channel} {handshake : Handshake} {ack selector : Option Channel}
  (hbase : base.val = paramNat o 5)
include hbase

theorem inRange_iff (ch : Channel) : inRange base (paramNat o 6) ch = true ↔ inDataRange o ch.val := by
  rw [inRange, decide_eq_true_iff, hbase, inDataRange]

theorem not_clashes_iff (x : Option Channel) (others : List (Option Channel)) :
    ¬clashes base (paramNat o 6) x others = true ↔ ∀ ch, x = some ch → ¬inDataRange o ch.val ∧ some ch ∉ others := by
  cases x with
  | none => exact ⟨fun _ => nofun, fun _ => nofun⟩
  | some ch => simp [clashes, inRange_iff hbase]

variable (hstrobe : strobe.val = paramNat o 7) (hhandshake : handshakeOf (paramNat o 9) = some handshake)
  (hack : ack.map Fin.val = namedChannel o 12) (hsel : selector.map Fin.val = namedChannel o 16)
include hstrobe hhandshake hack hsel

/-- The channels read keep R103 when the bytes do. -/
theorem strobedAllowed_iff : strobedAllowed o base strobe handshake ack selector ↔ strobedRules o := by
  have hspan : ¬15 < base.val + paramNat o 6 - 1 ↔ paramNat o 5 + paramNat o 6 ≤ 16 := by omega
  have hackRule : (¬clashes base (paramNat o 6) ack [some strobe] = true ∧ ¬(ack ≠ none ∧ paramField o 14 2 = 0))
      ↔ ∀ a, namedChannel o 12 = some a → a ≠ paramNat o 7 ∧ ¬inDataRange o a ∧ paramField o 14 2 ≠ 0 := by
    rw [not_clashes_iff hbase, forall_named_iff hack, ← hstrobe]
    cases ack with
    | none => simp
    | some a =>
      simp only [Option.some.injEq, forall_eq', List.mem_singleton, ne_eq, reduceCtorEq, not_false_eq_true, true_and]
      rw [and_assoc, and_left_comm, Fin.ext_iff]
  have hselRule : ¬clashes base (paramNat o 6) selector [some strobe, ack] = true
      ↔ ∀ c, namedChannel o 16 = some c → c ≠ paramNat o 7 ∧ namedChannel o 12 ≠ some c ∧ ¬inDataRange o c := by
    rw [not_clashes_iff hbase, forall_named_iff hsel]
    refine forall₂_congr (fun ch _ => ?_)
    rw [← hstrobe, Ne, Ne, ← eq_some_iff_named hack rfl]
    simp [Fin.ext_iff, eq_comm (a := ack), and_comm, and_assoc]
  have hneeds : ¬(handshake = .interlocked ∧ ack = none) ↔ (paramNat o 9 = 3 → namedChannel o 12 ≠ none) := by
    rw [handshakeOf_interlocked hhandshake, eq_none_iff_named hack, not_and]
  rw [strobedAllowed, strobedRules, hspan, inRange_iff hbase, hstrobe, ← hackRule, ← hselRule, ← hneeds]
  constructor
  · rintro ⟨hspan, hdata, hnoAck, hnoSel, hneeds, htimeout⟩
    exact ⟨hspan, hdata, ⟨hnoAck, htimeout⟩, hnoSel, hneeds⟩
  · rintro ⟨hspan, hdata, ⟨hnoAck, htimeout⟩, hnoSel, hneeds⟩
    exact ⟨hspan, hdata, hnoAck, hnoSel, hneeds, htimeout⟩

end Rules

/-- A STROBED order fits when each field is in its range and the fields agree (R103). -/
theorem strobedFits_iff {o : OrderPost} :
    strobedFits o ↔ (paramNat o 5 < 16 ∧ (1 ≤ paramNat o 6 ∧ paramNat o 6 ≤ 8) ∧ paramNat o 7 < 16 ∧ paramNat o 8 ≤ 1
      ∧ paramNat o 9 ≤ 3 ∧ paramField o 10 2 ≠ 0 ∧ optionalFits o 12 ∧ paramNat o 13 ≤ 1 ∧ optionalFits o 16
      ∧ paramNat o 17 ≤ 1) ∧ strobedRules o := by
  constructor
  · rintro ⟨hbase, hlo, hhi, hspan, hstrobe, hactive, hhandshake, hmin, hack, hackActive, hsel, hrun, hrules⟩
    exact ⟨⟨hbase, ⟨hlo, hhi⟩, hstrobe, hactive, hhandshake, hmin, hack, hackActive, hsel, hrun⟩, hspan, hrules⟩
  · rintro ⟨⟨hbase, ⟨hlo, hhi⟩, hstrobe, hactive, hhandshake, hmin, hack, hackActive, hsel, hrun⟩, hspan, hrules⟩
    exact ⟨hbase, hlo, hhi, hspan, hstrobe, hactive, hhandshake, hmin, hack, hackActive, hsel, hrun, hrules⟩

/-- A STROBED order that gives settings keeps R103, and gives what its bytes hold. -/
theorem strobedOf_reads {o : OrderPost} {c : StrobedSettings} (h : strobedOf o = some c) :
    strobedFits o ∧ strobedReads o c := by
  unfold strobedOf at h
  obtain ⟨base, hbase, h⟩ := Option.bind_eq_some_iff.1 h
  obtain ⟨width, hwidth, h⟩ := Option.bind_eq_some_iff.1 h
  obtain ⟨strobe, hstrobe, h⟩ := Option.bind_eq_some_iff.1 h
  obtain ⟨active, hactive, h⟩ := Option.bind_eq_some_iff.1 h
  obtain ⟨handshake, hhandshake, h⟩ := Option.bind_eq_some_iff.1 h
  obtain ⟨minWidth, hmin, h⟩ := Option.bind_eq_some_iff.1 h
  obtain ⟨ack, hack, h⟩ := Option.bind_eq_some_iff.1 h
  obtain ⟨ackActive, hackActive, h⟩ := Option.bind_eq_some_iff.1 h
  obtain ⟨selector, hsel, h⟩ := Option.bind_eq_some_iff.1 h
  obtain ⟨run, hrun, h⟩ := Option.bind_eq_some_iff.1 h
  rw [channelOf_eq_some] at hbase hstrobe
  rw [within_eq_some] at hwidth hmin
  rw [levelOf_eq_some] at hactive hackActive hrun
  rw [optionalChannelOf_eq_some] at hack hsel
  obtain ⟨hwidth, rfl⟩ := hwidth
  obtain ⟨⟨hmin, -⟩, rfl⟩ := hmin
  obtain ⟨hactive, rfl⟩ := hactive
  obtain ⟨hackActive, rfl⟩ := hackActive
  obtain ⟨hrun, rfl⟩ := hrun
  obtain ⟨hackFits, hack⟩ := hack
  obtain ⟨hselFits, hsel⟩ := hsel
  obtain ⟨hspan, h⟩ := Option.ite_none_left_eq_some.1 h
  obtain ⟨hnoStrobe, h⟩ := Option.ite_none_left_eq_some.1 h
  obtain ⟨hnoAck, h⟩ := Option.ite_none_left_eq_some.1 h
  obtain ⟨hnoSel, h⟩ := Option.ite_none_left_eq_some.1 h
  obtain ⟨hneeds, h⟩ := Option.ite_none_left_eq_some.1 h
  obtain ⟨htimeout, h⟩ := Option.ite_none_left_eq_some.1 h
  have hrules := (strobedAllowed_iff hbase hstrobe hhandshake hack hsel).1
    ⟨hspan, hnoStrobe, hnoAck, hnoSel, hneeds, htimeout⟩
  cases h
  refine ⟨strobedFits_iff.2 ⟨⟨hbase ▸ base.isLt, hwidth, hstrobe ▸ strobe.isLt, hactive,
    (handshakeOf_isSome _).1 (Option.isSome_iff_exists.2 ⟨_, hhandshake⟩), Nat.one_le_iff_ne_zero.1 hmin, hackFits,
    hackActive, hselFits, hrun⟩, hrules⟩, hbase, rfl, hstrobe, rfl, hhandshake, rfl, ?_, hsel, rfl⟩
  rw [← hack, Option.map_map, Option.map_map]
  rfl

/-- STROBED fields that keep R103 give settings. -/
theorem strobedOf_fits {o : OrderPost} (h : strobedFits o) : ∃ c, strobedOf o = some c := by
  obtain ⟨⟨hbase, hwidth, hstrobe, hactive, hhandshake, hmin, hackFits, hackActive, hselFits, hrun⟩, hrules⟩ :=
    strobedFits_iff.1 h
  obtain ⟨handshake, hhandshake⟩ := Option.isSome_iff_exists.1 ((handshakeOf_isSome _).2 hhandshake)
  obtain ⟨ack, hack⟩ := exists_channel_named hackFits
  obtain ⟨selector, hsel⟩ := exists_channel_named hselFits
  have hallowed := (strobedAllowed_iff (base := ⟨_, hbase⟩) (strobe := ⟨_, hstrobe⟩) rfl rfl hhandshake hack hsel).2 hrules
  obtain ⟨hspan, hnoStrobe, hnoAck, hnoSel, hneeds, htimeout⟩ := hallowed
  have hmin : 1 ≤ paramField o 10 2 ∧ paramField o 10 2 ≤ 65535 :=
    ⟨Nat.one_le_iff_ne_zero.2 hmin, Nat.le_of_lt_succ (paramField_two_lt o 10)⟩
  exact ⟨_, Option.bind_eq_some_iff.2 ⟨⟨_, hbase⟩, channelOf_eq_some.2 rfl,
    Option.bind_eq_some_iff.2 ⟨_, within_eq_some.2 ⟨hwidth, rfl⟩,
    Option.bind_eq_some_iff.2 ⟨⟨_, hstrobe⟩, channelOf_eq_some.2 rfl,
    Option.bind_eq_some_iff.2 ⟨_, levelOf_eq_some.2 ⟨hactive, rfl⟩,
    Option.bind_eq_some_iff.2 ⟨_, hhandshake,
    Option.bind_eq_some_iff.2 ⟨_, within_eq_some.2 ⟨hmin, rfl⟩,
    Option.bind_eq_some_iff.2 ⟨_, optionalChannelOf_eq_some.2 ⟨hackFits, hack⟩,
    Option.bind_eq_some_iff.2 ⟨_, levelOf_eq_some.2 ⟨hackActive, rfl⟩,
    Option.bind_eq_some_iff.2 ⟨_, optionalChannelOf_eq_some.2 ⟨hselFits, hsel⟩,
    Option.bind_eq_some_iff.2 ⟨_, levelOf_eq_some.2 ⟨hrun, rfl⟩,
    (if_neg hspan).trans <| (if_neg hnoStrobe).trans <| (if_neg hnoAck).trans <| (if_neg hnoSel).trans <|
      (if_neg hneeds).trans (if_neg htimeout)⟩⟩⟩⟩⟩⟩⟩⟩⟩⟩⟩

/-! ## The slot that the bytes give -/

/-- One bit of a byte as a flag. -/
theorem bitsOf_one_eq_getLsbD (b : Byte) (n : Nat) : (bitsOf b n 1 == 1) = b.getLsbD n :=
  (Nat.testBit_eq_decide_div_mod_eq (x := b.toNat) (i := n)).symm

/-- The switches byte has no bit above 1 (R170). -/
theorem switches_fit_iff (o : OrderPost) : bitsOf (paramByte o 4) 2 6 = 0 ↔ paramNat o 4 < 4 := by
  rw [bitsOf_top _ rfl, Nat.div_eq_zero_iff_lt (by decide)]
  rfl

/-- A kind with its settings holds the fields of its order (R102, R103). -/
theorem decoderKindOf_reads {o : OrderPost} {k : DecoderKind} (h : decoderKindOf o = some k) : kindReads o k := by
  unfold decoderKindOf at h
  split at h
  case h_1 hkind =>
    cases h
    exact hkind
  case h_2 hkind =>
    obtain ⟨c, hc, rfl⟩ := Option.map_eq_some_iff.1 h
    exact ⟨hkind, (asyncOf_reads hc).2⟩
  case h_3 hkind =>
    obtain ⟨c, hc, rfl⟩ := Option.map_eq_some_iff.1 h
    exact ⟨hkind, (clockedOf_reads hc).2⟩
  case h_4 hkind =>
    obtain ⟨c, hc, rfl⟩ := Option.map_eq_some_iff.1 h
    exact ⟨hkind, (strobedOf_reads hc).2⟩
  case h_5 => cases h

theorem exists_map_eq_some {α β : Type} {f : α → β} {x : Option α} : (∃ b, x.map f = some b) ↔ ∃ a, x = some a := by
  cases x <;> simp

/-- The fields of a kind fit when they give a kind with settings (R103). -/
theorem decoderFits_iff {o : OrderPost} :
    decoderFits o ↔ paramNat o 2 < 4 ∧ paramNat o 4 < 4 ∧ ∃ k, decoderKindOf o = some k := by
  unfold decoderFits decoderKindOf
  refine and_congr_right' (and_congr_right' ?_)
  match paramNat o 3 with
  | 0 => exact ⟨fun _ => ⟨_, rfl⟩, fun _ => trivial⟩
  | 1 => exact Iff.trans ⟨asyncOf_fits, fun ⟨_, hc⟩ => (asyncOf_reads hc).1⟩ exists_map_eq_some.symm
  | 2 => exact Iff.trans ⟨clockedOf_fits, fun ⟨_, hc⟩ => (clockedOf_reads hc).1⟩ exists_map_eq_some.symm
  | 3 => exact Iff.trans ⟨strobedOf_fits, fun ⟨_, hc⟩ => (strobedOf_reads hc).1⟩ exists_map_eq_some.symm
  | n + 4 => exact ⟨False.elim, nofun⟩

/-- A SET_DECODER gives a slot number, a kind and two switches, when they keep the rules (R102, R103). -/
theorem decoderOf_eq_some {o : OrderPost} {x : DecoderOrder} :
    decoderOf o = some x ↔
      (x.slot.val = paramNat o 2 ∧ x.storeCopies = (paramByte o 4).getLsbD 0 ∧ x.stream = (paramByte o 4).getLsbD 1
        ∧ decoderKindOf o = some x.kind) ∧ paramNat o 4 < 4 := by
  simp only [decoderOf, Option.bind_eq_bind, Option.bind_eq_some_iff, quadIndexOf_eq_some, Option.ite_none_left_eq_some,
    not_not, switches_fit_iff, bitsOf_one_eq_getLsbD]
  constructor
  · rintro ⟨slot, hslot, kind, hkind, hswitches, h⟩
    cases h
    exact ⟨⟨hslot, rfl, rfl, hkind⟩, hswitches⟩
  · rintro ⟨⟨hslot, hstore, hstream, hkind⟩, hswitches⟩
    exact ⟨_, hslot, _, hkind, hswitches,
      congrArg₂ (fun a b => some (DecoderOrder.mk x.slot x.kind a b)) hstore.symm hstream.symm⟩

/-- What a SET_DECODER gives is what its bytes hold (R102, R170). -/
theorem decoderReads_of_some {o : OrderPost} {x : DecoderOrder} (h : decoderOf o = some x) : decoderReads o x := by
  obtain ⟨⟨hslot, hstore, hstream, hkind⟩, -⟩ := decoderOf_eq_some.1 h
  exact ⟨hslot, hstore, hstream, decoderKindOf_reads hkind⟩

/-- A SET_DECODER gives a slot exactly when its fields fit (R103). -/
theorem exists_decoderOf_iff {o : OrderPost} : (∃ x, decoderOf o = some x) ↔ decoderFits o := by
  simp only [decoderFits_iff, decoderOf_eq_some]
  constructor
  · rintro ⟨x, ⟨hslot, -, -, hkind⟩, hswitches⟩
    exact ⟨hslot ▸ x.slot.isLt, hswitches, _, hkind⟩
  · rintro ⟨hslot, hswitches, k, hkind⟩
    exact ⟨⟨⟨_, hslot⟩, k, _, _⟩, ⟨rfl, rfl, rfl, hkind⟩, hswitches⟩

/-! The verdicts on a SET_DECODER, in the order of their causes (R103, R171). -/

section Judge
variable {o : OrderPost} (s : State)

/-- The kinds are 0 to 3 (R170). -/
theorem decoderLength_eq_none {kind : Nat} (h : 3 < kind) : decoderLength kind = none := by
  match kind with
  | 0 | 1 | 2 | 3 => omega
  | n + 4 => rfl

theorem judgeSetDecoder_unknown (h : 3 < paramNat o 3) : judgeSetDecoder o s = s.refuse .range := by
  rw [judgeSetDecoder, decoderLength_eq_none h]

theorem judgeSetDecoder_length {n : Nat} (hn : decoderLength (paramNat o 3) = some n) (hl : o.params.length ≠ n) :
    judgeSetDecoder o s = s.refuse .length := by
  rw [judgeSetDecoder, hn]
  exact if_pos hl

variable {s}
variable (hl : decoderLength (paramNat o 3) = some o.params.length) (hc : ¬s.capturing = true)
include hl hc

theorem judgeSetDecoder_unfit (hx : decoderOf o = none) : judgeSetDecoder o s = s.refuse .range := by
  rw [judgeSetDecoder, hl, hx]
  exact (if_neg (not_not.2 rfl)).trans (if_neg hc)

theorem judgeSetDecoder_taken {x : DecoderOrder} (hx : decoderOf o = some x) :
    judgeSetDecoder o s = (s.withDecoders { s.decoders with slots := s.decoders.slots.set x.slot x.newSlot }).ok := by
  rw [judgeSetDecoder, hl, hx]
  exact (if_neg (not_not.2 rfl)).trans (if_neg hc)

end Judge

/-- Settles O15: the causes of a refusal in their order, then the slot that the bytes give. -/
theorem setDecoderJudged : Obligations.SetDecoderJudged := by
  intro o s h
  refine ⟨fun hshort => ?_, fun hlong hkind => ?_, fun n hlong hn hl => ?_, fun hl hc hx => ?_, fun x hl hc hx => ?_,
    fun hno => ?_, fun hfits => ?_⟩
  · have hfits : decide (2 ≤ o.params.length) = false := decide_eq_false (Nat.not_le.2 hshort)
    refine congrArg Host.Outcome.next ?_
    rw [hfits]
    exact State.takeOrder_length h _ _
  · exact State.takeOrder_refuses h _ (decide_eq_true hlong) (judgeSetDecoder_unknown _ hkind)
  · exact State.takeOrder_refuses h _ (decide_eq_true hlong) (judgeSetDecoder_length _ hn hl)
  · exact State.takeOrder_refuses h _ (decide_eq_true (decoderLength_two_le hl))
      (judgeSetDecoder_unfit hl (State.heard_idle hc) hx)
  · refine congrArg Host.Outcome.next
      ((State.takeOrder_taken h _ (decide_eq_true (decoderLength_two_le hl)) _).trans ?_)
    rw [judgeSetDecoder_taken hl (State.heard_idle hc) hx, Judged.settle_eq]
    rfl
  · exact Option.eq_none_iff_forall_ne_some.2 (fun x hx => hno (exists_decoderOf_iff.1 ⟨x, hx⟩))
  · obtain ⟨x, hx⟩ := exists_decoderOf_iff.2 hfits
    exact ⟨x, hx, decoderReads_of_some hx⟩

end Sys2Proof.Machine

/-! SUPPORT. The verdicts on a STREAM order, and what a taken one leaves of the Streamer (R126, R127). -/

namespace Sys2Proof.Machine

section Judge
variable {o : OrderPost}

/-- The settings of a STREAM ON are given exactly when R126 takes its mode, T and W. -/
theorem streamOf_eq_some {x : StreamOrder} :
    streamOf o = some x ↔ streamFits o ∧ x = ⟨decide (paramNat o 3 = 1), paramNat o 4, paramNat o 5⟩ := by
  simp only [streamOf, Option.bind_eq_bind, Option.bind_eq_some_iff, levelOf_eq_some, Option.ite_none_right_eq_some,
    Option.ite_none_left_eq_some, Option.some.injEq]
  constructor
  · rintro ⟨_, ⟨hmode, rfl⟩, hthreshold, htimeout, rfl⟩
    exact ⟨⟨hmode, hthreshold, htimeout⟩, rfl⟩
  · rintro ⟨⟨hmode, hthreshold, htimeout⟩, rfl⟩
    exact ⟨_, ⟨hmode, rfl⟩, hthreshold, htimeout, rfl⟩

theorem streamOf_eq_none (h : ¬streamFits o) : streamOf o = none :=
  Option.eq_none_iff_forall_ne_some.2 (fun _ hx => h (streamOf_eq_some.1 hx).1)

variable (s : State)

/-- A setting is OFF or ON (R126, R127). -/
theorem judgeStream_noSetting (h : 2 ≤ paramNat o 2) : judgeStream o s = s.refuse .range := by
  have hnone : levelOf (paramNat o 2) = none :=
    Option.eq_none_iff_forall_ne_some.2 (fun _ hb => by have := (levelOf_eq_some.1 hb).1; omega)
  rw [judgeStream, hnone]

theorem judgeStream_off (h : paramNat o 2 = 0) : judgeStream o s = s.streamOff.ok := by
  rw [judgeStream, h]
  rfl

theorem judgeStream_unfit (h : paramNat o 2 = 1) (hx : ¬streamFits o) : judgeStream o s = s.refuse .range := by
  rw [judgeStream, h, streamOf_eq_none hx]
  rfl

theorem judgeStream_on (h : paramNat o 2 = 1) (hx : streamFits o) :
    judgeStream o s = (s.streamOn o.sender ⟨decide (paramNat o 3 = 1), paramNat o 4, paramNat o 5⟩).ok := by
  rw [judgeStream, h, streamOf_eq_some.2 ⟨hx, rfl⟩]
  rfl

end Judge

/-- STREAM OFF leaves the discarded Streamer, which streams to nobody, and the notices of the discard (R127, R132). -/
theorem State.streamOff_eq (s : State) :
    s.streamOff = { s with
      streamer := { s.streamer.discard s.time.elapsed with on := false, dest := none }
      orders := { s.orders with
        notices := s.orders.notices.withLoss (s.streamer.queue.drop s.streamer.inFlight ≠ []) } } := by
  rw [State.streamOff, State.discardQueue_eq, ← Streamer.discardRemoves_notices]
  cases s.streamer.discardRemoves <;> rfl

/-- Settles O23, by the judge's two questions: the setting, then the fields of an ON. -/
theorem streamOnTaken : Obligations.StreamOnTaken := by
  intro o s h hl
  have hfits : (o.params.length == 4) = true := beq_iff_eq.2 hl
  refine ⟨fun hset => ?_, fun hset hx => ?_, fun hset hx => ?_⟩
  · exact State.takeOrder_refuses h _ hfits (judgeStream_noSetting _ hset)
  · exact State.takeOrder_refuses h _ hfits (judgeStream_unfit _ hset hx)
  · refine ⟨_, congrArg Host.Outcome.next (State.takeOrder_taken h _ hfits _), ?_⟩
    rw [judgeStream_on _ hset hx, Judged.settle_eq]
    exact ⟨rfl, Streamer.ageLimitReached_iff _ _⟩

/-- Settles O24, by the discard that STREAM OFF brings. -/
theorem streamOffDiscards : Obligations.StreamOffDiscards := by
  intro o s h hl hset
  refine ⟨_, congrArg Host.Outcome.next (State.takeOrder_taken h _ (beq_iff_eq.2 hl) _), ?_⟩
  rw [judgeStream_off _ hset, Judged.settle_eq, State.streamOff_eq]
  exact ⟨rfl, rfl, rfl, State.discarded_of_streamer rfl, rfl⟩

end Sys2Proof.Machine

/-! SUPPORT. The payloads of posts, field by field (R170), and the codes that they carry (R170, R174). -/

namespace Sys2Proof.Machine

/-! ## Fields -/

@[simp] theorem fieldBytes_nil : fieldBytes [] = [] := rfl

@[simp] theorem fieldBytes_cons (w n : Nat) (fields : List (Nat × Nat)) :
    fieldBytes ((w, n) :: fields) = beBytes w n ++ fieldBytes fields := rfl

@[simp] theorem fieldBytes_append (a b : List (Nat × Nat)) : fieldBytes (a ++ b) = fieldBytes a ++ fieldBytes b :=
  List.flatMap_append

/-- A field of one byte. -/
@[simp] theorem beBytes_one (n : Nat) : beBytes 1 n = [byteOf n] := by
  rw [beBytes, beBytes, pow_zero, Nat.div_one]
  rfl

@[simp] theorem byteOf_toNat (b : Byte) : byteOf b.toNat = b := by simp [byteOf]

/-- A field of zeros. -/
theorem beBytes_zero (w : Nat) : beBytes w 0 = List.replicate w 0 := by
  induction w with
  | zero => rfl
  | succ w ih => rw [beBytes, ih, Nat.zero_div, List.replicate_succ]; rfl

/-- Two's complement is the unsigned number modulo the field (R170). -/
theorem beSigned_eq_fieldBytes (w : Nat) (i : Int) : beSigned w i = fieldBytes [signedField w i] := by
  simp [beSigned, signedField]

/-! ## Records -/

theorem Cause.code_eq (c : Cause) : c.code = byteOf c.number := by
  cases c with
  | forced => rfl
  | stage st branch => cases branch <;> rfl

theorem DecodeRecord.front_bytes (r : DecodeRecord) : fieldBytes r.front = [r.byte0, r.byte1] := by
  cases hkind : r.kind <;> cases hrun : r.runCount <;>
    simp [DecodeRecord.front, DecodeRecord.byte0, DecodeRecord.byte1, RecKind.code, byteOf, hkind, hrun]

/-- A decode record in a STREAM post (R170). -/
theorem QueuedRecord.bytes_eq (q : QueuedRecord) : q.bytes = fieldBytes q.fields := by
  simp [QueuedRecord.bytes, QueuedRecord.fields, DecodeRecord.front_bytes, DecodeErrors.number, DecodeErrors.code]

/-- A store record in a RECORDS post (R170). -/
theorem Record.bytes_eq (r : Record) : r.bytes = fieldBytes r.fields := by
  cases r with
  | run r => cases h : r.lastTick <;> simp [Record.bytes, Record.fields, beBytes_zero, h, byteOf]
  | trigger tick cause => simp [Record.bytes, Record.fields, beBytes_zero, Cause.code_eq, byteOf]
  | stage tick before after branch =>
    cases branch <;> simp [Record.bytes, Record.fields, beBytes_zero, BranchId.code, byteOf]
  | signalIn tick receipt sender flags origin => simp [Record.bytes, Record.fields]
  | stateOverrun tick missed => simp [Record.bytes, Record.fields, beBytes_zero, byteOf]
  | decode r endTick =>
    simp [Record.bytes, Record.fields, DecodeRecord.front_bytes, DecodeErrors.number, DecodeErrors.code]

/-! ## Payloads -/

theorem faultFields_eq (r : Option FaultRecord) : faultFields r = fieldBytes (faultNumbers r) := by
  cases r with
  | none => simp [faultFields, faultNumbers, beBytes_zero]
  | some f => simp [faultFields, faultNumbers, byteOf]

/-- A NOTICE payload, kind by kind (R170, R177, R178). -/
theorem State.noticePayload_eq (s : State) (k : NoticeKind) : s.noticePayload k = fieldBytes (s.noticeFields k) := by
  cases k with
  | present => simp [State.noticePayload, State.noticeFields, NoticeKind.code]
  | fault => simp [State.noticePayload, State.noticeFields, NoticeKind.code, faultFields_eq]
  | triggered =>
    cases h : s.orders.notices.triggered <;>
      simp [State.noticePayload, State.noticeFields, NoticeKind.code, Cause.code_eq, h]
  | done => simp [State.noticePayload, State.noticeFields, NoticeKind.code]
  | loadTimeout =>
    cases h : s.orders.notices.loadTimeout <;> simp [State.noticePayload, State.noticeFields, NoticeKind.code, h]
  | decodeLoss =>
    simp [State.noticePayload, State.noticeFields, NoticeKind.code, Quad.toList, Quad.get]
  | stateOverrun => simp [State.noticePayload, State.noticeFields, NoticeKind.code]
  | epochSkipped =>
    cases h : s.orders.notices.epochSkipped <;> simp [State.noticePayload, State.noticeFields, NoticeKind.code, h]
  | activity =>
    cases h : s.orders.notices.activity with
    | none => simp [State.noticePayload, State.noticeFields, NoticeKind.code, h]
    | some d =>
      cases hedge : d.rising <;> cases hresult : d.result <;>
        simp [State.noticePayload, State.noticeFields, NoticeKind.code, WakeResult.code, byteOf, h, hedge, hresult]

/-- The payloads of ANSWER, NOTICE, COLUMNS, STREAM and RECORDS posts (R170). -/
theorem payloads_stand : payloadsStand := by
  refine ⟨fun a => ?_, State.noticePayload_eq, fun p => ?_, QueuedRecord.bytes_eq, fun p => ?_⟩
  · simp [Answer.payload]
  · cases hlast : p.last with
    | none => simp [ColumnsPost.payload, beSigned_eq_fieldBytes, signedField, byteOf, hlast]
    | some why => cases why <;> simp [ColumnsPost.payload, beSigned_eq_fieldBytes, signedField, EndReason.code, hlast]
  · simp [RecordsPost.payload, funext Record.bytes_eq]

theorem codes_stand : codesStand := ⟨rfl, rfl, rfl, rfl, rfl⟩

end Sys2Proof.Machine

/-! SUPPORT. When a post may start, which one does, and what its start leaves (R157, R158, R160, R161). -/

namespace Sys2Proof.Machine

/-! ## The first of an ordered list -/

/-- In a list whose ranks rise, the first member with a property is the one of least rank. -/
theorem find?_eq_some_iff_least {α : Type} {rank : α → Nat} {p : α → Bool} {l : List α}
    (hl : l.Pairwise (fun a b => rank a < rank b)) (a : α) :
    l.find? p = some a ↔ (a ∈ l ∧ p a = true) ∧ ∀ b ∈ l, p b = true → rank a ≤ rank b := by
  induction l with
  | nil => simp
  | cons x l ih =>
    obtain ⟨hx, hrest⟩ := List.pairwise_cons.1 hl
    by_cases hp : p x = true
    · rw [List.find?_cons_of_pos hp, Option.some.injEq]
      constructor
      · rintro rfl
        refine ⟨⟨List.mem_cons_self, hp⟩, fun b hb _ => ?_⟩
        obtain rfl | hb := List.mem_cons.1 hb
        · exact Nat.le_refl _
        · exact Nat.le_of_lt (hx b hb)
      · rintro ⟨⟨ha, -⟩, hleast⟩
        obtain rfl | ha := List.mem_cons.1 ha
        · rfl
        · exact absurd (hx a ha) (Nat.not_lt.2 (hleast x List.mem_cons_self hp))
    · rw [List.find?_cons_of_neg hp, ih hrest]
      have hne {b : α} (hb : p b = true) : b ≠ x := fun e => hp (e ▸ hb)
      constructor
      · rintro ⟨⟨ha, hpa⟩, hleast⟩
        exact ⟨⟨List.mem_cons_of_mem x ha, hpa⟩,
          fun b hb hpb => hleast b ((List.mem_cons.1 hb).resolve_left (hne hpb)) hpb⟩
      · rintro ⟨⟨ha, hpa⟩, hleast⟩
        exact ⟨⟨(List.mem_cons.1 ha).resolve_left (hne hpa), hpa⟩,
          fun b hb hpb => hleast b (List.mem_cons_of_mem x hb) hpb⟩

/-! ## When a post may start -/

theorem bitTicks_eq (rate : BitVec 2) : bitTicks rate = ([64, 32, 16, 8] : List Nat).getD rate.toNat 0 := by
  revert rate
  decide

/-- A start is allowed as R157, R158, R160 and R161 say. -/
theorem State.mayStart_iff (s : State) : s.mayStart = true ↔ s.startAllowed := by
  simp [State.mayStart, State.startAllowed, LinkController.bitBegins, LinkController.retryOver, bitTicks_eq,
    Option.any_eq_true, Config.retryBits, and_assoc, Classical.or_iff_not_imp_left]

/-! ## The ready posts -/

/-- The part that a SIGNAL post carries and the part that it leaves (R164, R186). -/
theorem State.carriedPart_eq (s : State) : s.link.carriedPart s.time.elapsed = s.carried := by
  unfold LinkController.carriedPart LinkController.raiseAt State.carried
  cases s.link.newRaise with
  | none => rfl
  | some r => by_cases h : r.time = s.time.elapsed <;> simp [h, Option.filter_some]

theorem State.leftPart_eq (s : State) : s.link.leftPart s.time.elapsed = s.leftBehind := by
  unfold LinkController.leftPart LinkController.raiseAt State.leftBehind
  cases s.link.newRaise with
  | none => rfl
  | some r => by_cases h : r.time = s.time.elapsed <;> simp [h, Option.filter_some, SignalPart.empty]

theorem State.noticeDest_eq (s : State) (k : NoticeKind) : s.orders.noticeDest k = s.noticeGoesTo k := by
  cases k <;> rfl

theorem State.noticeWaits_iff (s : State) (k : NoticeKind) :
    (s.orders.notices.holds k && (s.orders.noticeDest k).isSome) = true ↔ s.noticeWaits k := by
  rw [State.noticeDest_eq, Bool.and_eq_true, Option.isSome_iff_ne_none, State.noticeWaits]

theorem mem_noticeRanks (k : NoticeKind) : k ∈ noticeRanks := by cases k <;> decide

theorem noticeRanks_sorted : noticeRanks.Pairwise (fun a b => a.code < b.code) := by decide

/-- The ready notice is the waiting kind of lowest code (R178). -/
theorem State.readyNotice_eq_some (s : State) (k : NoticeKind) :
    s.orders.readyNotice = some k ↔ s.noticeWaits k ∧ ∀ k', s.noticeWaits k' → k.code ≤ k'.code := by
  simp only [OrderUnit.readyNotice, find?_eq_some_iff_least noticeRanks_sorted, mem_noticeRanks, true_and, true_implies,
    State.noticeWaits_iff]

theorem State.readyNotice_isSome (s : State) : s.orders.readyNotice.isSome = true ↔ ∃ k, s.noticeWaits k := by
  simp only [OrderUnit.readyNotice, List.find?_isSome, mem_noticeRanks, true_and, State.noticeWaits_iff]

theorem Streamer.ready_iff (st : Streamer) : st.ready = true ↔ st.postReady := by
  cases hbatch : st.batch <;> simp [Streamer.ready, Streamer.postReady, hbatch, and_assoc]

theorem Readout.held_eq_some (r : Readout) (p : RecordsPost) : r.held = some p ↔ r = .holding p := by
  cases r <;> simp [Readout.held]

/-- A source holds a ready post as R158 says. -/
theorem State.ready_iff (s : State) (source : Source) : s.ready source = true ↔ s.holdsPost source := by
  cases source with
  | signal => rw [State.ready, State.carriedPart_eq, bne_iff_ne, State.holdsPost]
  | notice => exact s.readyNotice_isSome
  | answer => exact bne_iff_ne
  | columns => exact bne_iff_ne
  | stream => exact s.streamer.ready_iff
  | records => simp only [State.ready, Option.isSome_iff_exists, Readout.held_eq_some, State.holdsPost]

/-! ## The choice -/

theorem mem_allSources (source : Source) : source ∈ allSources := by cases source <;> decide

theorem allSources_sorted : allSources.Pairwise (fun a b => a.cls < b.cls) := by decide

theorem State.startable_iff (s : State) (source : Source) : s.startable source = true ↔ s.mayOffer source := by
  rw [State.startable, Bool.and_eq_true, List.contains_iff_mem, State.ready_iff, State.mayOffer]

/-- The choice is the post of lowest class among those that may start (R158). -/
theorem State.choice_eq_some (s : State) (source : Source) :
    s.choice = some source ↔ s.mayOffer source ∧ ∀ other, s.mayOffer other → source.cls ≤ other.cls := by
  simp only [State.choice, find?_eq_some_iff_least allSources_sorted, mem_allSources, true_and, true_implies,
    State.startable_iff]

theorem State.choice_isSome (s : State) : s.choice.isSome = true ↔ ∃ source, s.mayOffer source := by
  simp only [State.choice, List.find?_isSome, mem_allSources, true_and, State.startable_iff]

theorem State.choice_eq_none {s : State} (h : ∀ source, ¬s.mayOffer source) : s.choice = none :=
  Option.eq_none_iff_forall_ne_some.2 (fun source hs => h source ((s.choice_eq_some source).1 hs).1)

/-! ## The start of a post -/

/-- A STREAM post takes one record in SINGLE and up to eight in BATCH (R128, R129). -/
theorem Streamer.postSize_eq (st : Streamer) : st.postSize = min (if st.batch then 8 else 1) st.queue.length := by
  unfold Streamer.postSize
  split <;> rfl

/-- A source that holds a post composes it, and its start leaves what R158 says. -/
theorem State.compose_starts (s : State) (source : Source) (h : s.holdsPost source) :
    ∃ c, s.compose source = some c ∧ s.started source (c.start source) := by
  cases source with
  | signal =>
    refine ⟨_, rfl, ?_⟩
    simp only [State.started, ← State.carriedPart_eq, ← State.leftPart_eq]
    rfl
  | notice =>
    obtain ⟨k, hk⟩ := Option.isSome_iff_exists.1 (s.readyNotice_isSome.2 h)
    obtain ⟨hwaits, hleast⟩ := (s.readyNotice_eq_some k).1 hk
    obtain ⟨dest, hdest⟩ := Option.ne_none_iff_exists'.1 hwaits.2
    refine ⟨_, congrArg (Option.map _) hk, k, dest, hwaits, hleast, hdest, ?_⟩
    simp only [Composed.start, State.noticeDest_eq, hdest, ← State.noticePayload_eq]
    rfl
  | answer =>
    obtain ⟨a, rest, hlist⟩ := List.exists_cons_of_ne_nil h
    exact ⟨_, by rw [State.compose, hlist]; rfl, a, rest, hlist, rfl⟩
  | columns =>
    obtain ⟨p, rest, hlist⟩ := List.exists_cons_of_ne_nil h
    exact ⟨_, by rw [State.compose, hlist]; rfl, p, rest, hlist, rfl⟩
  | stream =>
    refine ⟨_, rfl, ?_⟩
    simp only [State.started, ← Streamer.postSize_eq, ← QueuedRecord.bytes_eq]
    rfl
  | records =>
    obtain ⟨p, hp⟩ := h
    exact ⟨_, by rw [State.compose, hp]; rfl, p, hp, rfl⟩

/-- The most urgent ready post starts (R157, R158). -/
theorem State.startPost_starts {s : State} {source : Source} (h : s.choice = some source) :
    s.started source s.startPost := by
  obtain ⟨⟨-, hholds⟩, -⟩ := (s.choice_eq_some source).1 h
  obtain ⟨c, hcompose, hstarted⟩ := s.compose_starts source hholds
  rw [State.startPost, h]
  simp only [hcompose]
  exact hstarted

theorem State.startPost_of_no_choice {s : State} (h : s.choice = none) : s.startPost = s := by
  rw [State.startPost, h]

theorem exec_postStart_allowed {s : State} (h : s.startAllowed) : exec .postStart s = .next s.startPost :=
  congrArg Host.Outcome.next (if_pos (s.mayStart_iff.2 h))

theorem exec_postStart_not_allowed {s : State} (h : ¬s.startAllowed) : exec .postStart s = .next s :=
  congrArg Host.Outcome.next (if_neg (h ∘ s.mayStart_iff.1))

/-! ## No tick passes -/

/-- An event that is due keeps the tick from passing (log 1). -/
theorem State.dueEvent_ne_none {s : State} {i : Instr} (h : (true, i) ∈ s.dueEvents) : s.dueEvent ≠ none := by
  unfold State.dueEvent
  split
  · exact Option.some_ne_none _
  · rw [Ne, Option.map_eq_none_iff, List.find?_eq_none]
    exact fun hnone => hnone _ h rfl

/-- A post that may start at an allowed instant is due (R157). -/
theorem State.postStart_due {s : State} (h : s.startAllowed) (hpost : ∃ source, s.mayOffer source) :
    (true, Instr.postStart) ∈ s.dueEvents := by
  have hdue : s.startDue = true := Bool.and_eq_true_iff.2 ⟨s.mayStart_iff.2 h, s.choice_isSome.2 hpost⟩
  simp [State.dueEvents, hdue]

/-- Settles O50: the choice is the post of lowest class, its start leaves the framed post, and until it starts it is due. -/
theorem mostUrgentPostStarts : Obligations.MostUrgentPostStarts := by
  refine ⟨fun s h => exec_postStart_not_allowed h, fun s h => ⟨fun source hmay hleast => ?_, fun hnone => ?_, fun hpost => ?_⟩,
    payloads_stand, codes_stand⟩
  · exact ⟨_, exec_postStart_allowed h, State.startPost_starts ((s.choice_eq_some source).2 ⟨hmay, hleast⟩)⟩
  · rw [exec_postStart_allowed h, State.startPost_of_no_choice (State.choice_eq_none hnone)]
  · exact State.dueEvent_ne_none (State.postStart_due h hpost)

end Sys2Proof.Machine

/-! SUPPORT. Every step keeps the Column Engine's outgoing list within the phase of the current reduction (R136, R147). -/

namespace Sys2Proof.Machine

/-! ## Orders that leave the engine -/

theorem State.leaveStandby_columns (s : State) : s.leaveStandby.columns = s.columns := rfl

theorem Judged.settle_columns (j : Judged) (code : Byte) (o : OrderPost) :
    (j.settle code o).columns = j.state.columns := by
  rw [Judged.settle_eq]

/-- An order is turned away with the engine as it stood, or settled with the engine of its judge (R171). -/
theorem State.takeOrder_columns_cases (s : State) (code : Byte) (o : OrderPost) (fits : Bool) (judge : State → Judged) :
    (s.takeOrder code o fits judge).columns = s.columns
      ∨ (s.takeOrder code o fits judge).columns = (judge s.hearPost.leaveStandby).state.columns := by
  unfold State.takeOrder State.dispatchOrder
  split
  swap
  · exact .inl rfl
  split
  · exact .inl rfl
  rw [Judged.settle_columns]
  split
  · exact .inr rfl
  · exact .inl rfl

/-- The judge of an order leaves the engine. -/
def JudgeLeavesColumns (judge : State → Judged) : Prop := ∀ u, (judge u).state.columns = u.columns

/-- An order leaves the engine when its judge does. -/
theorem State.takeOrder_columns {judge : State → Judged} (hj : JudgeLeavesColumns judge) (s : State) (code : Byte)
    (o : OrderPost) (fits : Bool) : (s.takeOrder code o fits judge).columns = s.columns := by
  rcases s.takeOrder_columns_cases code o fits judge with h | h
  · exact h
  · exact h.trans (hj _)

section Judge
variable (o : OrderPost)

theorem judgeConfigureChannels_columns : JudgeLeavesColumns (judgeConfigureChannels o) := by
  intro u
  unfold judgeConfigureChannels
  split_ifs <;> rfl

theorem judgeSetSampling_columns : JudgeLeavesColumns (judgeSetSampling o) := by
  intro u
  unfold judgeSetSampling
  split
  · rfl
  · split <;> rfl

theorem judgeSetCapture_columns : JudgeLeavesColumns (judgeSetCapture o) := by
  intro u
  unfold judgeSetCapture
  split_ifs <;> rfl

theorem judgeSetCounter_columns : JudgeLeavesColumns (judgeSetCounter o) := by
  intro u
  unfold judgeSetCounter
  split
  · rfl
  · split <;> rfl

theorem judgeSetDecoder_columns : JudgeLeavesColumns (judgeSetDecoder o) := by
  intro u
  unfold judgeSetDecoder
  split
  · rfl
  split
  · rfl
  split
  · rfl
  · split <;> rfl

theorem judgeLoadBegin_columns : JudgeLeavesColumns (judgeLoadBegin o) := by
  intro u
  unfold judgeLoadBegin
  dsimp only
  split_ifs <;> rfl

theorem State.finishLoad_columns (u : State) (l : Load) (image : List Byte) :
    (u.finishLoad l image).state.columns = u.columns := by
  unfold State.finishLoad
  split
  · rfl
  · split <;> rfl

theorem judgeLoadPart_columns : JudgeLeavesColumns (judgeLoadPart o) := by
  intro u
  unfold judgeLoadPart State.loadPart
  split
  · rfl
  dsimp only
  split_ifs
  case neg => exact State.finishLoad_columns u _ _
  all_goals rfl

theorem judgeForceTrigger_columns : JudgeLeavesColumns judgeForceTrigger := by
  intro u
  unfold judgeForceTrigger
  split_ifs <;> rfl

theorem judgeRelease_columns : JudgeLeavesColumns judgeRelease := by
  intro u
  unfold judgeRelease
  split_ifs <;> rfl

theorem judgeStandby_columns : JudgeLeavesColumns (judgeStandby o) := by
  intro u
  unfold judgeStandby
  split
  · rfl
  split
  · rfl
  split
  · rfl
  · split <;> rfl

theorem judgeStream_columns : JudgeLeavesColumns (judgeStream o) := by
  intro u
  unfold judgeStream
  split
  · rfl
  · exact u.discardQueue_columns.1
  · split <;> rfl

theorem judgeReadRecords_columns : JudgeLeavesColumns (judgeReadRecords o) := by
  intro u
  unfold judgeReadRecords
  split
  · rfl
  split
  · rfl
  · split <;> rfl

theorem judgeSearch_columns : JudgeLeavesColumns (judgeSearch o) := by
  intro u
  unfold judgeSearch
  split
  · rfl
  split
  · rfl
  split
  · rw [State.beginWalk_frame]
    rfl
  · rfl

theorem judgeQuery_columns : JudgeLeavesColumns (judgeQuery o) := by
  intro u
  unfold judgeQuery State.drawForQuery
  split
  · rfl
  · dsimp only
    split <;> rfl

theorem judgeClearFault_columns : JudgeLeavesColumns judgeClearFault := by
  intro u
  unfold judgeClearFault
  split_ifs <;> rfl

end Judge

/-! ## Commands that leave the engine -/

/-- The commands that may move the Column Engine: they begin or end a reduction, bring records whose overwrites are announced,
end a COLUMNS post or a repeat time, reset the node, or carry the bytes of a post that may be any order. -/
def reachesColumns : Instr → Bool
  | .arm _ | .abort _ | .reduce _ | .reduceCancel _ | .reset _ | .postDiscarded _ | .transition _ _ | .sample | .activeEdge
  | .holdSampleDue | .delayLineDue | .interlockedTimeout _ | .depth | .noTrigger | .timeLimit | .repeatTimerExpiry
  | .sentInFull | .resetPin | .resetPinRelease _ _ => true
  | _ => false

theorem execUnknownOrder_columns {s t : State} {sender : Station} {toAll : Bool} {payload : List Byte}
    (h : execUnknownOrder sender toAll payload s = .next t) : t.columns = s.columns := by
  unfold execUnknownOrder at h
  split at h
  · cases h
    exact State.takeOrder_columns (fun _ => rfl) _ _ _ _
  · cases h
    split <;> rfl

theorem State.receiveSignal_columns (s : State) (sender : Station) (flags : FlagSet) (origin : Nat) :
    (s.receiveSignal sender flags origin).columns = s.columns := by
  unfold State.receiveSignal
  split_ifs <;> rfl

theorem State.receiveMark_columns (s : State) (sender : Station) (t0 : Nat) :
    (s.receiveMark sender t0).columns = s.columns := by
  unfold State.receiveMark
  split_ifs <;> rfl

theorem State.loadExpired_columns (s : State) : s.loadExpired.columns = s.columns := by
  unfold State.loadExpired
  split <;> rfl

theorem State.buildStep_columns (s : State) (j : ReadJob) : (s.buildStep j).columns = s.columns := by
  unfold State.buildStep
  split
  · rfl
  split
  · rfl
  · dsimp only
    split <;> rfl

theorem State.endWalk_columns (s : State) (j : WalkJob) : (s.endWalk j).columns = s.columns := by
  unfold State.endWalk
  split <;> rfl

theorem State.startPost_columns (s : State) : s.startPost.columns = s.columns := by
  rw [State.startPost_frame]

theorem State.sourceReturned_columns (s : State) (src : Source) : (s.sourceReturned src).columns = s.columns := by
  rw [State.sourceReturned_frame]

theorem State.collide_columns (s : State) (f : Flight) : (s.collide f).columns = s.columns := by
  rw [State.collide_frame]

/-- No other command moves the Column Engine (R136). -/
theorem exec_columns {i : Instr} (hi : reachesColumns i = false) {s t : State} (h : exec i s = .next t) :
    t.columns = s.columns := by
  cases i with
  | configureChannels o => cases h; exact State.takeOrder_columns (judgeConfigureChannels_columns o) _ _ _ _
  | setSampling o => cases h; exact State.takeOrder_columns (judgeSetSampling_columns o) _ _ _ _
  | setCapture o => cases h; exact State.takeOrder_columns (judgeSetCapture_columns o) _ _ _ _
  | setCounter o => cases h; exact State.takeOrder_columns (judgeSetCounter_columns o) _ _ _ _
  | setDecoder o => cases h; exact State.takeOrder_columns (judgeSetDecoder_columns o) _ _ _ _
  | loadBegin o => cases h; exact State.takeOrder_columns (judgeLoadBegin_columns o) _ _ _ _
  | loadPart o => cases h; exact State.takeOrder_columns (judgeLoadPart_columns o) _ _ _ _
  | forceTrigger o => cases h; exact State.takeOrder_columns judgeForceTrigger_columns _ _ _ _
  | release o => cases h; exact State.takeOrder_columns judgeRelease_columns _ _ _ _
  | standby o => cases h; exact State.takeOrder_columns (judgeStandby_columns o) _ _ _ _
  | streamOn o => cases h; exact State.takeOrder_columns (judgeStream_columns o) _ _ _ _
  | streamOff o => cases h; exact State.takeOrder_columns (judgeStream_columns o) _ _ _ _
  | readRecords o => cases h; exact State.takeOrder_columns (judgeReadRecords_columns o) _ _ _ _
  | search o => cases h; exact State.takeOrder_columns (judgeSearch_columns o) _ _ _ _
  | query o => cases h; exact State.takeOrder_columns (judgeQuery_columns o) _ _ _ _
  | readFault o => cases h; exact State.takeOrder_columns (fun _ => rfl) _ _ _ _
  | clearFault o => cases h; exact State.takeOrder_columns judgeClearFault_columns _ _ _ _
  | unknownOrder sender toAll payload => exact execUnknownOrder_columns h
  | signalReceipt sender flags origin => cases h; split; exacts [State.receiveSignal_columns _ _ _ _, rfl]
  | mark sender t0 => cases h; split; exacts [State.receiveMark_columns _ _ _, rfl]
  | counterExpiry k => cases h; split <;> rfl
  | counterOverflow k => cases h; split <;> rfl
  | loadTimeout => cases h; split; exacts [s.loadExpired_columns, rfl]
  | batchTimeout => cases h; split <;> rfl
  | readBuild =>
    cases h
    split
    · split
      · rfl
      · exact State.buildStep_columns _ _
    all_goals rfl
  | searchWalkEnd =>
    cases h
    split
    · split
      · rfl
      · exact State.endWalk_columns _ _
    all_goals rfl
  | lineIdle => cases h; split <;> rfl
  | postStart => cases h; split; exacts [s.startPost_columns, rfl]
  | withdrawn => cases h; split; exacts [rfl, State.sourceReturned_columns _ _]
  | collision => cases h; split; exacts [rfl, State.collide_columns _ _]
  | _ => cases hi

/-- The passing of a tick leaves the engine (R166). -/
theorem State.passTick_columns (s : State) : s.passTick.columns = s.columns := by
  have hhold : s.holdInstant.columns = s.columns := by
    unfold State.holdInstant
    split
    · rfl
    · split <;> rfl
  unfold State.passTick State.offerReady
  split
  · rfl
  · dsimp only
    split <;> exact hhold

/-! ## Orders that reach the engine -/

/-- An order keeps the outgoing list within its phase when its judge does. -/
theorem State.takeOrder_fits {s : State} (h : s.columns.listFits) (code : Byte) (o : OrderPost) (fits : Bool)
    {judge : State → Judged} (hj : ∀ u : State, u.columns.listFits → (judge u).state.columns.listFits) :
    (s.takeOrder code o fits judge).columns.listFits := by
  rcases s.takeOrder_columns_cases code o fits judge with e | e <;> rw [e]
  · exact h
  · exact hj _ h

section Judge
variable (o : OrderPost) {u : State} (h : u.columns.listFits)
include h

theorem judgeArm_fits : (judgeArm o u).state.columns.listFits := by
  unfold judgeArm
  split
  · exact h
  split
  · exact h
  split
  · exact h
  · exact State.armEffects_fits u h

theorem judgeAbort_fits : (judgeAbort u).state.columns.listFits := by
  unfold judgeAbort
  split
  · show (u.endCapture .aborted).discardQueue.columns.listFits
    rw [(State.discardQueue_columns _).1]
    exact State.endCapture_fits u _ h
  · exact h

theorem judgeReduce_fits : (judgeReduce o u).state.columns.listFits := by
  unfold judgeReduce
  split
  · exact h
  split
  · exact h
  split
  · exact h
  · exact State.beginReduction_fits _ _ _ (State.endReduction_fits u .superseded h)

theorem judgeReduceCancel_fits : (judgeReduceCancel o u).state.columns.listFits := by
  unfold judgeReduceCancel
  split
  · exact h
  split
  · exact h
  · exact State.endReduction_listFits u .cancelled h

end Judge

/-- The engine at its reset value: no reduction, nothing outgoing (R182). -/
theorem State.resetNode_fits (s : State) : s.resetNode.columns.listFits :=
  ⟨Nat.zero_le 3, fun _ hp => absurd hp List.not_mem_nil⟩

theorem State.takeReset_fits {s : State} (h : s.columns.listFits) (o : OrderPost) : (s.takeReset o).columns.listFits := by
  unfold State.takeReset
  split
  swap
  · exact h
  dsimp only
  split
  · rw [Judged.settle_columns]
    exact State.resetNode_fits s.hearPost.leaveStandby
  unfold State.refuseReset
  split
  · exact h
  · rw [Judged.settle_columns]
    exact h

/-! ## Events that reach the engine -/

section Event
variable {s : State} (h : s.columns.listFits)
include h

/-- A wake edge may arm the node (R55, R150). -/
theorem State.wake_fits (ch : Channel) (rising : Bool) : (s.wake ch rising).columns.listFits := by
  show s.leaveStandby.wakeAction.1.columns.listFits
  unfold State.wakeAction
  split
  · split
    · exact h
    · exact State.armEffects_fits s.leaveStandby h
  · exact h

theorem State.sampledTransition_fits (ch : Channel) (level : Bool) : (s.sampledTransition ch level).columns.listFits := by
  rw [(s.sampledTransition_frame ch level).1]
  exact h

theorem State.enabledTransition_fits (ch : Channel) (level : Bool) :
    (s.enabledTransition ch level).columns.listFits := by
  have hrecorded := State.sampledTransition_fits (s := s.withPfe (s.pfe.noteActivity ch)) h ch level
  unfold State.enabledTransition
  dsimp only
  split
  · exact State.wake_fits hrecorded ch level
  · exact hrecorded

theorem State.moveInput_fits (ch : Channel) (mv : Int) : (s.moveInput ch mv).columns.listFits := by
  unfold State.moveInput
  dsimp only
  split
  · exact h
  · exact State.enabledTransition_fits (s := s.withPfe (s.pfe.withInput ch mv)) h ch _

theorem State.takeEdge_fits (e : ClockEdge) : (s.takeEdge e).columns.listFits := by
  unfold State.takeEdge
  dsimp only
  split
  · exact State.takeSample_fits _ _ h
  · exact h
  split
  · exact State.takeSample_fits _ _ h
  · exact h

theorem State.judgeEdge_fits (e : ClockEdge) : (s.judgeEdge e).columns.listFits := by
  unfold State.judgeEdge
  split
  · exact h
  split
  · exact State.takeEdge_fits h e
  · exact h

theorem State.readQualifier_fits : s.readQualifier.columns.listFits := by
  unfold State.readQualifier
  split <;> exact h

theorem State.activeEdge_fits : s.activeEdge.columns.listFits := by
  unfold State.activeEdge State.examineEdge
  split
  · exact h
  dsimp only
  split
  · refine State.judgeEdge_fits (State.readQualifier_fits ?_) _
    exact h
  · exact h

theorem State.completeHold_fits (x : HoldSample) : (s.completeHold x).columns.listFits := by
  unfold State.completeHold
  split
  · exact State.takeSample_fits _ _ h
  · exact h

theorem State.completeDelay_fits (e : DelayEntry) : (s.completeDelay e).columns.listFits :=
  State.takeSample_fits _ _ h

/-- The sample that is due, whatever brings it (log 7). -/
theorem State.dueSample_fits {t : State} (ht : s.dueSample = some t) : t.columns.listFits := by
  unfold State.dueSample at ht
  split at ht
  · cases ht
    exact State.takeSample_fits s false h
  split at ht
  · split at ht
    · cases ht
      exact State.completeHold_fits h _
    · cases ht
  · cases ht
    exact State.completeDelay_fits h _
  · split at ht
    · cases ht
    · cases ht
      exact State.activeEdge_fits h

/-- A post sent in full moves the engine when it is a COLUMNS post (R145, R159). -/
theorem State.sourceSent_fits (src : Source) : (s.sourceSent src).columns.listFits := by
  cases src with
  | columns => exact State.columnsSent_fits s h
  | answer =>
    show s.answerSent.columns.listFits
    rw [State.answerSent_frame]
    exact h
  | stream =>
    show s.streamSent.columns.listFits
    rw [State.streamSent_frame]
    exact h
  | signal | notice | records => exact h

end Event

/-- A repeat timer that expires belongs to a reduction in WAITING (R151). -/
theorem State.repeatDue_waiting {s : State} {r : Reduction} (h : s.repeatDue = some r) :
    s.columns.current = some r ∧ ∃ expiry, r.phase = .waiting expiry := by
  unfold State.repeatDue at h
  split at h
  · cases h
  obtain ⟨r', hcurrent, hdue⟩ := Option.bind_eq_some_iff.1 h
  split at hdue
  · rename_i expiry hphase
    split at hdue <;> cases hdue
    exact ⟨hcurrent, expiry, hphase⟩
  all_goals cases hdue

/-- In WAITING nothing is outgoing, so the next pass begins on an empty list (R136, R151). -/
theorem State.repeatPass_due_fits {s : State} (h : s.columns.listFits) {r : Reduction} (hr : s.repeatDue = some r) :
    (s.repeatPass r).columns.listFits := by
  obtain ⟨hcurrent, expiry, hphase⟩ := State.repeatDue_waiting hr
  simp only [ColumnEngine.listFits, hcurrent, hphase] at h
  exact State.repeatPass_fits s r h

/-! ## Commands -/

/-- From a list that fits, a command leads to a list that fits. -/
def KeepsListFits (f : State → Host.Outcome State Fault Refusal) : Prop :=
  ∀ s t, s.columns.listFits → f s = .next t → t.columns.listFits

theorem KeepsListFits.of_next {f : State → State} (h : ∀ s, s.columns.listFits → (f s).columns.listFits) :
    KeepsListFits (fun s => .next (f s)) := by
  intro s t hs ht
  cases ht
  exact h s hs

theorem KeepsListFits.of_columns {i : Instr} (hi : reachesColumns i = false) : KeepsListFits (exec i) := by
  intro s t hs ht
  rw [exec_columns hi ht]
  exact hs

/-- The command carries the bytes of a post, which may be any order (R162). -/
def carriesBytes : Instr → Bool
  | .postDiscarded _ => true
  | _ => false

/-- Every command of one meaning keeps the outgoing list within its phase. -/
theorem exec_fits_of_meaning {i : Instr} (hi : carriesBytes i = false) : KeepsListFits (exec i) := by
  cases i with
  | arm o => exact KeepsListFits.of_next (fun _ h => State.takeOrder_fits h _ o _ (fun _ hu => judgeArm_fits o hu))
  | abort o => exact KeepsListFits.of_next (fun _ h => State.takeOrder_fits h _ o _ (fun _ hu => judgeAbort_fits hu))
  | reduce o => exact KeepsListFits.of_next (fun _ h => State.takeOrder_fits h _ o _ (fun _ hu => judgeReduce_fits o hu))
  | reduceCancel o =>
    exact KeepsListFits.of_next (fun _ h => State.takeOrder_fits h _ o _ (fun _ hu => judgeReduceCancel_fits o hu))
  | reset o => exact KeepsListFits.of_next (fun _ h => State.takeReset_fits h o)
  | transition ch mv => exact KeepsListFits.of_next (fun _ h => State.moveInput_fits h ch mv)
  | sample =>
    refine KeepsListFits.of_next (fun s h => ?_)
    split
    · exact State.takeSample_fits s false h
    · exact h
  | activeEdge => exact KeepsListFits.of_next (fun _ h => State.activeEdge_fits h)
  | holdSampleDue =>
    refine KeepsListFits.of_next (fun s h => ?_)
    cases s.holdDue with
    | none => exact h
    | some x => exact State.completeHold_fits h x
  | delayLineDue =>
    refine KeepsListFits.of_next (fun s h => ?_)
    cases s.delayDue with
    | none => exact h
    | some e => exact State.completeDelay_fits h e
  | interlockedTimeout slot =>
    refine KeepsListFits.of_next (fun s h => ?_)
    split
    · cases hd : s.dueSample with
      | none => exact h
      | some t => exact State.dueSample_fits h hd
    · exact h
  | depth =>
    refine KeepsListFits.of_next (fun s h => ?_)
    split
    · exact h
    split
    · exact State.endCapture_fits s .depth h
    · cases hd : s.dueSample with
      | none => exact h
      | some t =>
        dsimp only
        split
        · exact State.dueSample_fits h hd
        · exact h
  | noTrigger =>
    refine KeepsListFits.of_next (fun s h => ?_)
    split
    · exact State.endCapture_fits s .noTrigger h
    · exact h
  | timeLimit =>
    refine KeepsListFits.of_next (fun s h => ?_)
    split
    · exact State.endCapture_fits s .timeLimit h
    · exact h
  | repeatTimerExpiry =>
    refine KeepsListFits.of_next (fun s h => ?_)
    cases hr : s.repeatDue with
    | none => exact h
    | some r => exact State.repeatPass_due_fits h hr
  | sentInFull =>
    refine KeepsListFits.of_next (fun s h => ?_)
    split
    · exact h
    · exact State.sourceSent_fits (s := s.withLink { s.link.landed with collisions := 0 }) h _
  | resetPin => exact KeepsListFits.of_next (fun s _ => s.resetNode_fits)
  | resetPinRelease straps rate =>
    refine KeepsListFits.of_next (fun s h => ?_)
    split
    · exact s.resetNode_fits
    · exact h
  | postDiscarded bytes => cases hi
  | _ => exact KeepsListFits.of_columns rfl

/-! ## Posts that arrive as bytes -/

/-- An order that arrives as bytes is the command of its code (R171). -/
theorem deliverOrder_eq_exec (code : Byte) (o : OrderPost) :
    ∃ i, carriesBytes i = false ∧ deliverOrder code o = exec i := by
  unfold deliverOrder
  split
  · exact ⟨.configureChannels o, rfl, rfl⟩
  · exact ⟨.setSampling o, rfl, rfl⟩
  · exact ⟨.setCapture o, rfl, rfl⟩
  · exact ⟨.setCounter o, rfl, rfl⟩
  · exact ⟨.setDecoder o, rfl, rfl⟩
  · exact ⟨.loadBegin o, rfl, rfl⟩
  · exact ⟨.loadPart o, rfl, rfl⟩
  · exact ⟨.arm o, rfl, rfl⟩
  · exact ⟨.forceTrigger o, rfl, rfl⟩
  · exact ⟨.abort o, rfl, rfl⟩
  · exact ⟨.release o, rfl, rfl⟩
  · exact ⟨.standby o, rfl, rfl⟩
  · by_cases hoff : o.params.head? = some 0
    · simp only [if_pos hoff]
      exact ⟨.streamOff o, rfl, rfl⟩
    · simp only [if_neg hoff]
      exact ⟨.streamOn o, rfl, rfl⟩
  · exact ⟨.reduce o, rfl, rfl⟩
  · exact ⟨.reduceCancel o, rfl, rfl⟩
  · exact ⟨.readRecords o, rfl, rfl⟩
  · exact ⟨.search o, rfl, rfl⟩
  · exact ⟨.query o, rfl, rfl⟩
  · exact ⟨.readFault o, rfl, rfl⟩
  · exact ⟨.clearFault o, rfl, rfl⟩
  · exact ⟨.reset o, rfl, rfl⟩
  · exact ⟨.unknownOrder o.sender o.toAll (code :: o.tag :: o.params), rfl, rfl⟩

/-- The payload of an ORDER post for the node is a command (R171). -/
theorem deliverPayload_eq_exec (p : HeardPost) : ∃ i, carriesBytes i = false ∧ deliverPayload p = exec i := by
  unfold deliverPayload
  split
  · exact deliverOrder_eq_exec _ _
  · exact ⟨.unknownOrder p.station (p.dest == 15) _, rfl, rfl⟩

/-- A post that passed the checks is a command, or was only heard (R162). -/
theorem deliverPost_cases (p : HeardPost) (s : State) :
    (∃ i, carriesBytes i = false ∧ deliverPost p s = exec i s) ∨ deliverPost p s = .next s.hearPost := by
  unfold deliverPost
  split
  · exact .inl ⟨.mark _ _, rfl, rfl⟩
  · exact .inl ⟨.signalReceipt _ _ _, rfl, rfl⟩
  · split
    · obtain ⟨i, hi, he⟩ := deliverPayload_eq_exec p
      exact .inl ⟨i, hi, congrFun he s⟩
    · exact .inr rfl
  · exact .inr rfl

theorem execPostDiscarded_fits (bytes : List Byte) : KeepsListFits (execPostDiscarded bytes) := by
  intro s t h ht
  unfold execPostDiscarded at ht
  split at ht
  swap
  · cases ht
    exact h
  split at ht
  · cases ht
    exact h
  · rcases deliverPost_cases _ s with ⟨i, hi, he⟩ | he <;> rw [he] at ht
    · exact exec_fits_of_meaning hi s t h ht
    · cases ht
      exact h

/-- Every command keeps the outgoing list within its phase. -/
theorem exec_fits (i : Instr) : KeepsListFits (exec i) := by
  cases hi : carriesBytes i with
  | false => exact exec_fits_of_meaning hi
  | true =>
    cases i with
    | postDiscarded bytes => exact execPostDiscarded_fits bytes
    | _ => cases hi

/-- Settles O59, by the command, the due event or the passing tick that the step takes. -/
theorem outgoingPostsFitTheirPhase : Obligations.OutgoingPostsFitTheirPhase := by
  intro s t h ht
  have hqueue (rest : List Instr) : (s.withPending rest).columns.listFits := h
  unfold step at ht
  split at ht
  · exact exec_fits _ _ t (hqueue _) ht
  split at ht
  · exact exec_fits _ s t h ht
  · cases ht
    rw [State.passTick_columns]
    exact h

end Sys2Proof.Machine

/-! SUPPORT. What a snapshot holds and what a pass sees of the store (R139 to R144). -/

namespace Sys2Proof.Machine

/-! ## The records below a window -/

theorem Record.closes_eq_closeTick (d : Nat) (r : Record) : r.closes d = r.closeTick d := by
  cases r with
  | run r =>
    simp only [Record.closes, Record.closeTick]
    cases r.lastTick <;> rfl
  | trigger | stage | signalIn | stateOverrun | decode => rfl

theorem Record.run?_eq_some {r : Record} {x : Run} : r.run? = some x ↔ r = .run x := by
  cases r <;> simp [Record.run?]

theorem Record.triggerTick?_eq_some {r : Record} {tick : Nat} :
    r.triggerTick? = some tick ↔ ∃ cause, r = .trigger tick cause := by
  cases r <;> simp [Record.triggerTick?]

/-- The newest RUN of a list of records. -/
theorem newestRun_eq_some {l : List Record} {i : Nat} {r : Run} (hi : l[i]? = some (.run r))
    (hlast : ∀ (j : Nat) (r' : Run), l[j]? = some (.run r') → j ≤ i) : l.reverse.findSome? Record.run? = some r := by
  obtain ⟨hlt, hget⟩ := List.getElem?_eq_some_iff.1 hi
  have hsplit : l.reverse = (l.drop (i + 1)).reverse ++ .run r :: (l.take i).reverse := by
    rw [← hget, ← List.reverse_concat, ← List.reverse_append, ← List.append_cons, ← List.drop_eq_getElem_cons,
      List.take_append_drop]
  have hafter : (l.drop (i + 1)).reverse.findSome? Record.run? = none := by
    rw [List.findSome?_eq_none_iff]
    intro x hx
    obtain ⟨k, hk⟩ := List.getElem?_of_mem (List.mem_reverse.1 hx)
    rw [List.getElem?_drop] at hk
    cases hrun : x.run? with
    | none => rfl
    | some y =>
      have := hlast (i + 1 + k) y (by rw [hk, Record.run?_eq_some.1 hrun])
      omega
  rw [hsplit, List.findSome?_append, hafter]
  rfl

theorem newestRun_eq_none {l : List Record} (h : ∀ r, Record.run r ∉ l) : l.reverse.findSome? Record.run? = none := by
  rw [List.findSome?_eq_none_iff]
  intro x hx
  cases hrun : x.run? with
  | none => rfl
  | some y => exact absurd (Record.run?_eq_some.1 hrun ▸ List.mem_reverse.1 hx) (h y)

/-- The TRIGGER marker of a store that holds one (R139). -/
theorem Store.triggerMark_eq_some {st : Store} {tick : Nat} {cause : Cause} (h : Record.trigger tick cause ∈ st.records)
    (hone : ∀ tick' cause', Record.trigger tick' cause' ∈ st.records → tick' = tick) : st.triggerMark = some tick := by
  unfold Store.triggerMark
  cases hfound : st.records.findSome? Record.triggerTick? with
  | none => exact absurd (List.findSome?_eq_none_iff.1 hfound _ h) (by simp [Record.triggerTick?])
  | some tick' =>
    obtain ⟨r, hr, htick⟩ := List.exists_of_findSome?_eq_some hfound
    obtain ⟨cause', rfl⟩ := Record.triggerTick?_eq_some.1 htick
    rw [hone _ _ hr]

theorem Store.triggerMark_eq_none {st : Store} (h : ∀ tick cause, Record.trigger tick cause ∉ st.records) :
    st.triggerMark = none := by
  rw [Store.triggerMark, List.findSome?_eq_none_iff]
  intro r hr
  cases htick : r.triggerTick? with
  | none => rfl
  | some tick =>
    obtain ⟨cause, rfl⟩ := Record.triggerTick?_eq_some.1 htick
    exact absurd hr (h _ _)

/-! ## The snapshot -/

/-- What a RUN is to the one after it (R140, R143). -/
def Run.asPredecessor (rec : SamplingRecord) (r : Run) : Predecessor :=
  ⟨r.value, if rec.mode = .timing then some ((Record.run r).closeTick rec.divisor) else none⟩

section Snapshot
variable {s : State} {p : ReduceParams} {before : Int}

theorem State.snapshot_window_of_tick {t : Nat} (h : s.referenceTick p.reference = some t) :
    (s.snapshot p before).window = t + p.offset := by
  simp only [State.snapshot, h]

theorem State.snapshot_window_kept (h : s.referenceTick p.reference = none) :
    (s.snapshot p before).window = before := by
  simp only [State.snapshot, h]

/-- How many records close before the window `w` (R140). -/
def State.recordsBefore (s : State) (w : Int) : Nat :=
  s.store.records.findIdx (fun r => !decide ((r.closeTick s.sampler.record.divisor : Int) < w))

theorem State.recordsBefore_closes {w : Int} {i : Nat} {r : Record} (hi : i < s.recordsBefore w)
    (hr : s.store.records[i]? = some r) : (r.closes s.sampler.record.divisor : Int) < w := by
  obtain ⟨_, rfl⟩ := List.getElem?_eq_some_iff.1 hr
  simpa [Record.closes_eq_closeTick] using List.not_of_lt_findIdx hi

theorem State.recordsBefore_stops {w : Int} {r : Record} (hr : s.store.records[s.recordsBefore w]? = some r) :
    w ≤ r.closes s.sampler.record.divisor := by
  obtain ⟨hlt, rfl⟩ := List.getElem?_eq_some_iff.1 hr
  have hstop := List.findIdx_getElem (w := hlt)
  rw [Bool.not_eq_true', decide_eq_false_iff_not, Int.not_lt] at hstop
  rw [Record.closes_eq_closeTick]
  exact hstop

theorem State.recordsBefore_le (s : State) (w : Int) : s.recordsBefore w ≤ s.store.records.length :=
  List.findIdx_le_length

/-- The records below the window of a snapshot. -/
theorem State.takeWhile_below (s : State) (w : Int) :
    s.store.records.takeWhile (fun r => decide ((r.closeTick s.sampler.record.divisor : Int) < w))
      = s.store.records.take (s.recordsBefore w) := List.takeWhile_eq_take_findIdx_not

theorem State.snapshot_floor :
    (s.snapshot p before).floor =
      if s.recordsBefore (s.snapshot p before).window < s.store.records.length then
        some (s.store.nextSeq - s.store.records.length + s.recordsBefore (s.snapshot p before).window)
      else none := by
  have hlength : (s.store.records.take (s.recordsBefore (s.snapshot p before).window)).length
      = s.recordsBefore (s.snapshot p before).window := List.length_take_of_le (s.recordsBefore_le _)
  rw [← State.takeWhile_below] at hlength
  rw [← hlength]
  rfl

theorem State.snapshot_predecessor :
    (s.snapshot p before).predecessor =
      ((s.store.records.take (s.recordsBefore (s.snapshot p before).window)).reverse.findSome? Record.run?).map
        (Run.asPredecessor s.sampler.record) := by
  rw [← State.takeWhile_below]
  rfl

/-- What a snapshot holds, by its reference and by the records below its window (R139, R140). -/
theorem State.snapshot_holds (s : State) (p : ReduceParams) (before : Int) :
    s.SnapshotHolds p before (s.snapshot p before) := by
  refine ⟨fun href => ?_, fun tick cause href hmem hone => ?_, fun href hno => ?_, fun i r href hi hlast => ?_,
    fun href hno => ?_, rfl, rfl, s.recordsBefore (s.snapshot p before).window, s.recordsBefore_le _,
    fun i r hi hr => State.recordsBefore_closes hi hr, fun r hr => State.recordsBefore_stops hr, State.snapshot_floor,
    fun i r hi hr hlast => ?_, fun hno => ?_⟩
  · rw [State.snapshot_window_of_tick (t := 0) (by rw [href]; rfl)]
    simp
  · exact State.snapshot_window_of_tick (by rw [href]; exact Store.triggerMark_eq_some hmem hone)
  · exact State.snapshot_window_kept (by rw [href]; exact Store.triggerMark_eq_none hno)
  · rw [Record.closes_eq_closeTick]
    refine State.snapshot_window_of_tick ?_
    rw [href, State.referenceTick, Store.newestRun, newestRun_eq_some hi hlast]
    rfl
  · refine State.snapshot_window_kept ?_
    rw [href, State.referenceTick, Store.newestRun, newestRun_eq_none hno]
    rfl
  · rw [State.snapshot_predecessor, newestRun_eq_some (i := i) (r := r)]
    · rw [Record.closes_eq_closeTick]
      rfl
    · rw [List.getElem?_take_of_lt hi, hr]
    · intro j r' hj
      rw [List.getElem?_take] at hj
      split at hj
      · exact hlast j r' ‹_› hj
      · cases hj
  · rw [State.snapshot_predecessor, newestRun_eq_none]
    · rfl
    · intro r hr
      obtain ⟨j, hj⟩ := List.getElem?_of_mem hr
      rw [List.getElem?_take] at hj
      split at hj
      · exact hno j r ‹_› hj
      · cases hj

end Snapshot

/-! ## The view of a pass -/

/-- The RUNs among some records. -/
theorem map_run_filterMap {isRun : Record → Bool} (h : ∀ r, isRun r = r.run?.isSome) (l : List Record) :
    (l.filterMap Record.run?).map .run = l.filter isRun := by
  induction l with
  | nil => rfl
  | cons r l ih => cases r <;> simp [List.filterMap_cons, Record.run?, h, ih]

/-- The DECODE copies among some records. -/
theorem map_copy_filterMap {isCopy : Record → Bool} (h : ∀ r, isCopy r = r.copy?.isSome) (l : List Record) :
    (l.filterMap Record.copy?).map (fun c => Record.decode c.1 c.2) = l.filter isCopy := by
  induction l with
  | nil => rfl
  | cons r l ih => cases r <;> simp [List.filterMap_cons, Record.copy?, h, ih]

section Runs
variable (rec : SamplingRecord)

theorem coverage_length (runs : List Run) : (coverage rec runs).length = runs.length := by
  induction runs using coverage.induct with
  | case1 => rfl
  | case2 r => rfl
  | case3 r r' rest ih => simpa [coverage] using ih

/-- A RUN with another after it is covered up to that one in state mode (R141). -/
theorem coverage_before {runs : List Run} {i : Nat} {r r' : Run} (hr : runs[i]? = some r)
    (hr' : runs[i + 1]? = some r') :
    (coverage rec runs)[i]?
      = some ⟨r, r.start, if rec.mode = .timing then (Record.run r).closeTick rec.divisor else r'.start - 1⟩ := by
  induction runs using coverage.induct generalizing i with
  | case1 => cases hr
  | case2 => cases hr'
  | case3 a b rest ih =>
    cases i with
    | zero =>
      cases hr
      cases hr'
      rfl
    | succ i => exact ih hr hr'

/-- The last RUN is covered up to its close tick (R139, R141). -/
theorem coverage_last {runs : List Run} {i : Nat} {r : Run} (hr : runs[i]? = some r) (hr' : runs[i + 1]? = none) :
    (coverage rec runs)[i]? = some ⟨r, r.start, min Config.tickMax ((Record.run r).closeTick rec.divisor)⟩ := by
  induction runs using coverage.induct generalizing i with
  | case1 => cases hr
  | case2 a =>
    cases i with
    | zero => cases hr; rfl
    | succ i => cases hr
  | case3 a b rest ih =>
    cases i with
    | zero => cases hr'
    | succ i => exact ih hr hr'

theorem edgesFrom_length (pred : Option Predecessor) (runs : List Run) :
    (edgesFrom rec pred runs).length = runs.length := by
  induction runs generalizing pred with
  | nil => rfl
  | cons r rest ih => exact congrArg Nat.succ (ih _)

end Runs

/-- The channels that have an edge at the start of a RUN, after its predecessor (R143). -/
def Run.changedFrom (r : Run) : Option Predecessor → Levels
  | none => 0
  | some p => if ∀ t, p.lastTick = some t → t + 1 = r.start then p.value ^^^ r.value else 0

theorem edgesFrom_cons (rec : SamplingRecord) (pred : Option Predecessor) (r : Run) (rest : List Run) :
    edgesFrom rec pred (r :: rest) = (r.start, r.changedFrom pred) :: edgesFrom rec (some (r.asPredecessor rec)) rest := by
  cases pred with
  | none => rfl
  | some p => cases hlast : p.lastTick <;> simp [edgesFrom, Run.changedFrom, Run.asPredecessor, hlast]

theorem edgesFrom_first {rec : SamplingRecord} {pred : Option Predecessor} {runs : List Run} {r : Run}
    (hr : runs[0]? = some r) : (edgesFrom rec pred runs)[0]? = some (r.start, r.changedFrom pred) := by
  cases runs with
  | nil => cases hr
  | cons a rest =>
    cases hr
    rw [edgesFrom_cons]
    rfl

theorem edgesFrom_next {rec : SamplingRecord} {pred : Option Predecessor} {runs : List Run} {j : Nat} {q r : Run}
    (hq : runs[j]? = some q) (hr : runs[j + 1]? = some r) :
    (edgesFrom rec pred runs)[j + 1]? = some (r.start, r.changedFrom (some (q.asPredecessor rec))) := by
  induction runs generalizing j pred with
  | nil => cases hq
  | cons a rest ih =>
    rw [edgesFrom_cons]
    cases j with
    | zero =>
      cases hq
      exact edgesFrom_first hr
    | succ j => exact ih hq hr

/-- A channel has an edge where the RUN follows its predecessor without a gap and its level differs (R143). -/
theorem Run.changedFrom_getLsbD (r : Run) (p : Predecessor) (ch : Nat) :
    (r.changedFrom (some p)).getLsbD ch = true ↔
      (∀ t, p.lastTick = some t → t + 1 = r.start) ∧ p.value.getLsbD ch ≠ r.value.getLsbD ch := by
  rw [Run.changedFrom]
  by_cases hnear : ∀ t, p.lastTick = some t → t + 1 = r.start
  · rw [if_pos hnear, BitVec.getLsbD_xor, bne_iff_ne]
    exact ⟨fun hdiffers => ⟨hnear, hdiffers⟩, And.right⟩
  · rw [if_neg hnear]
    exact ⟨fun hzero => absurd hzero (by simp), fun h => absurd h.1 hnear⟩

/-- In timing mode a RUN is a predecessor with its last covered tick, in state mode one without (R140). -/
theorem Run.asPredecessor_near (rec : SamplingRecord) (q r : Run) :
    (∀ t, (q.asPredecessor rec).lastTick = some t → t + 1 = r.start)
      ↔ (rec.mode = .timing → (Record.run q).closeTick rec.divisor + 1 = r.start) := by
  simp only [Run.asPredecessor]
  split <;> simp [*]

/-- What a pass sees of the store, record by record (R140 to R144). -/
theorem State.passView_holds (s : State) (sn : Snapshot) : s.ViewHolds sn (s.passView sn) := by
  refine ⟨(s.considered sn).filterMap Record.run?, map_run_filterMap (fun r => by cases r <;> rfl) _,
    coverage_length _ _, edgesFrom_length _ _ _, fun i r hr => ⟨fun r' hr' => ?_, fun hr' => ?_, ?_⟩,
    map_copy_filterMap (fun r => by cases r <;> rfl) _, rfl⟩
  · rw [Record.closes_eq_closeTick]
    exact coverage_before _ hr hr'
  · rw [Record.closes_eq_closeTick]
    exact coverage_last _ hr hr'
  · simp only [Record.closes_eq_closeTick]
    cases i with
    | zero =>
      refine ⟨_, edgesFrom_first hr, fun ch _ => ?_⟩
      cases sn.predecessor with
      | none => simp [Run.changedFrom]
      | some p => simp [Run.changedFrom_getLsbD]
    | succ j =>
      obtain ⟨hlt, -⟩ := List.getElem?_eq_some_iff.1 hr
      have hq := List.getElem?_eq_getElem (Nat.lt_of_succ_lt hlt)
      refine ⟨_, edgesFrom_next hq hr, fun ch _ => ?_⟩
      rw [Run.changedFrom_getLsbD, Run.asPredecessor_near]
      constructor
      · rintro ⟨hnear, hdiffers⟩
        exact .inr ⟨j, _, rfl, hq, hnear, hdiffers⟩
      · rintro (⟨_, hfirst, -⟩ | ⟨j', q, hj, hq', hnear, hdiffers⟩)
        · exact absurd hfirst (Nat.succ_ne_zero j)
        · cases hj
          cases hq.symm.trans hq'
          exact ⟨hnear, hdiffers⟩

end Sys2Proof.Machine

/-! SUPPORT. The verdicts on REDUCE and REDUCE_CANCEL, and the engine that a taken one leaves (R137, R138, R147 to R149). -/

namespace Sys2Proof.Machine

/-! ## What a REDUCE carries -/

section Params
variable {o : OrderPost}

theorem referenceOf_isSome (n : Nat) : (referenceOf n).isSome = true ↔ n ≤ 2 := by
  match n with
  | 0 | 1 | 2 => simp [referenceOf]
  | n + 3 => simp [referenceOf]

/-- The slots byte has no bit above 3 (R170). -/
theorem slotsByte_fits_iff : bitsOf (paramByte o 19) 4 4 = 0 ↔ paramNat o 19 < 16 := by
  rw [bitsOf_top _ rfl, Nat.div_eq_zero_iff_lt (by decide)]
  rfl

/-- The least offset of two's complement, which R137 leaves out. -/
theorem signedOf_six_eq_min {n : Nat} : signedOf 6 n = -(2 ^ 47) ↔ n = 2 ^ 47 := by
  unfold signedOf
  split <;> omega

theorem signedOf_six (n : Nat) : signedOf 6 n = (n : Int) - (if n < 2 ^ 47 then 0 else 2 ^ 48) := by
  unfold signedOf
  split
  · exact (Int.sub_zero _).symm
  · rfl

/-- A REDUCE gives parameters exactly when R137 takes its fields, and they are what its bytes hold. -/
theorem reduceOf_eq_some {p : ReduceParams} :
    reduceOf o = some p ↔ reduceFits o ∧ ∃ reference, referenceOf (paramNat o 2) = some reference
      ∧ p = ⟨reference, signedOf 6 (paramField o 3 6), paramField o 9 6, paramField o 15 2, paramWord o 17,
        BitVec.ofNat 4 (paramNat o 19), paramNat o 20⟩ := by
  simp only [reduceOf, Option.bind_eq_bind, Option.bind_eq_some_iff, within_eq_some, Option.ite_none_left_eq_some,
    Option.some.injEq, not_or, ne_eq, Decidable.not_not, slotsByte_fits_iff, signedOf_six_eq_min]
  constructor
  · rintro ⟨reference, href, _, ⟨⟨hspan, hspan'⟩, rfl⟩, _, ⟨⟨hcols, hcols'⟩, rfl⟩, ⟨hoffset, hchannels, hslots⟩, rfl⟩
    have hcode : paramNat o 2 ≤ 2 := (referenceOf_isSome _).1 (Option.isSome_of_eq_some href)
    exact ⟨⟨hcode, hoffset, hspan, hspan', hcols, hcols', hchannels, hslots⟩, reference, href, rfl⟩
  · rintro ⟨⟨-, hoffset, hspan, hspan', hcols, hcols', hchannels, hslots⟩, reference, href, rfl⟩
    exact ⟨reference, href, _, ⟨⟨hspan, hspan'⟩, rfl⟩, _, ⟨⟨hcols, hcols'⟩, rfl⟩, ⟨hoffset, hchannels, hslots⟩, rfl⟩

theorem reduceOf_eq_none (h : ¬reduceFits o) : reduceOf o = none :=
  Option.eq_none_iff_forall_ne_some.2 (fun _ hp => h (reduceOf_eq_some.1 hp).1)

theorem exists_reduceOf_reads (h : reduceFits o) : ∃ p, reduceOf o = some p ∧ reduceReads o p := by
  obtain ⟨hcode, -, -, -, -, -, -, hslots⟩ := id h
  obtain ⟨reference, href⟩ := Option.isSome_iff_exists.1 ((referenceOf_isSome _).2 hcode)
  exact ⟨_, reduceOf_eq_some.2 ⟨h, reference, href, rfl⟩, href, signedOf_six _, rfl, rfl, rfl,
    (BitVec.toNat_ofNat _ _).trans (Nat.mod_eq_of_lt hslots), rfl⟩

end Params

/-! ## Owners and references -/

section Judge
variable {s : State} {o : OrderPost}

/-- Another station owns the current reduction (R148, R149). -/
theorem State.reducesForOther_of_foreign {r : Reduction} (hr : s.columns.current = some r) (hown : r.owner ≠ o.sender) :
    s.reducesForOther o.sender = true := by
  rw [State.reducesForOther, hr, Option.any_some, bne_iff_ne]
  exact hown

theorem State.reducesForOther_of_own (h : ∀ r, s.columns.current = some r → r.owner = o.sender) :
    ¬s.reducesForOther o.sender = true := by
  rw [State.reducesForOther]
  cases hr : s.columns.current with
  | none => exact Bool.false_ne_true
  | some r => rw [Option.any_some, bne_iff_ne, h r hr]; exact not_not_intro rfl

/-- A retained RUN is what a NEWEST reference reads (R137, R139). -/
theorem Store.newestRun_isSome (st : Store) : st.newestRun.isSome = true ↔ ∃ r, Record.run r ∈ st.records := by
  rw [Store.newestRun, List.findSome?_isSome_iff]
  constructor
  · rintro ⟨x, hx, hrun⟩
    obtain ⟨r, hr⟩ := Option.isSome_iff_exists.1 hrun
    exact ⟨r, Record.run?_eq_some.1 hr ▸ List.mem_reverse.1 hx⟩
  · rintro ⟨r, hr⟩
    exact ⟨_, List.mem_reverse.2 hr, rfl⟩

theorem State.canReduce_iff (p : ReduceParams) : s.canReduce p = true ↔ ¬s.lacksReference p := by
  rw [State.canReduce, State.lacksReference, Bool.and_eq_true, decide_eq_true_eq]
  cases hreference : p.reference with
  | trigger => simp [Option.isSome_iff_ne_none]
  | newest => simp [Store.newestRun_isSome]
  | epoch => simp

/-! The verdicts on a REDUCE, in the order of their causes (R137). -/

theorem judgeReduce_unfit (s : State) (h : reduceOf o = none) : judgeReduce o s = s.refuse .range := by
  rw [judgeReduce, h]

variable {p : ReduceParams} (hp : reduceOf o = some p)
include hp

theorem judgeReduce_busy {r : Reduction} (hr : s.columns.current = some r) (hown : r.owner ≠ o.sender) :
    judgeReduce o s = s.refuse .busy := by
  simp only [judgeReduce, hp]
  exact if_pos (State.reducesForOther_of_foreign hr hown)

theorem judgeReduce_lacks (hown : ∀ r, s.columns.current = some r → r.owner = o.sender) (hlacks : s.lacksReference p) :
    judgeReduce o s = s.refuse .state := by
  have hcan : (!s.canReduce p) = true := by
    rw [Bool.not_eq_true', ← Bool.not_eq_true, State.canReduce_iff]
    exact not_not_intro hlacks
  simp only [judgeReduce, hp]
  rw [if_neg (State.reducesForOther_of_own hown), if_pos hcan]

theorem judgeReduce_taken (hown : ∀ r, s.columns.current = some r → r.owner = o.sender) (hreads : ¬s.lacksReference p) :
    judgeReduce o s =
      { state := (s.endReduction .superseded).beginReduction o.sender p, status := .ok, result := p.result } := by
  have hcan : ¬(!s.canReduce p) = true := by
    rw [(State.canReduce_iff p).2 hreads]
    exact Bool.false_ne_true
  simp only [judgeReduce, hp]
  rw [if_neg (State.reducesForOther_of_own hown), if_neg hcan]

end Judge

/-! The verdicts on a REDUCE_CANCEL, in the order of their causes (R149). -/

section Cancel
variable {s : State} {o : OrderPost}

theorem judgeReduceCancel_none (h : s.columns.current = none) : judgeReduceCancel o s = s.refuse .state :=
  if_pos (by rw [h]; rfl)

variable {r : Reduction} (hr : s.columns.current = some r)
include hr

theorem judgeReduceCancel_busy (hown : r.owner ≠ o.sender) : judgeReduceCancel o s = s.refuse .busy := by
  rw [judgeReduceCancel, if_neg (by rw [hr]; exact Bool.false_ne_true),
    if_pos (State.reducesForOther_of_foreign hr hown)]

theorem judgeReduceCancel_taken (hown : r.owner = o.sender) :
    judgeReduceCancel o s = (s.endReduction .cancelled).ok := by
  have hmine : ∀ r', s.columns.current = some r' → r'.owner = o.sender := by
    rw [hr]
    rintro _ ⟨⟩
    exact hown
  rw [judgeReduceCancel, if_neg (by rw [hr]; exact Bool.false_ne_true), if_neg (State.reducesForOther_of_own hmine)]

end Cancel

/-! ## The engine that an order leaves -/

/-- The end of a reduction leaves the next column as it stood (R147). -/
theorem State.endReduction_nextColumn (s : State) (why : EndReason) :
    (s.endReduction why).columns.nextColumn = s.columns.nextColumn := by
  unfold State.endReduction
  split
  · rfl
  split
  · rfl
  · rfl
  · split <;> rfl
  · rfl

/-- What the end of a reduction leaves outgoing, whether one was current or not (R147). -/
theorem State.endReduction_leaves (s : State) (why : EndReason) :
    (s.columns.current = none → (s.endReduction why).columns.outgoing = s.columns.outgoing)
      ∧ ∀ old, s.columns.current = some old →
        ∃ free, (s.endReduction why).columns.outgoing = s.columns.endedList old why free :=
  ⟨fun h => by rw [State.endReduction_none h], fun _ h => State.endReduction_outgoing h why⟩

/-- The end of a reduction takes no post from the outgoing list (R147). -/
theorem State.endReduction_keeps_posts {s : State} (why : EndReason) (h : s.columns.outgoing ≠ []) :
    (s.endReduction why).columns.outgoing ≠ [] := by
  obtain ⟨hnone, hsome⟩ := s.endReduction_leaves why
  cases hc : s.columns.current with
  | none => rwa [hnone hc]
  | some old =>
    obtain ⟨free, hfree⟩ := hsome old hc
    rw [hfree, ColumnEngine.endedList]
    exact List.append_ne_nil_of_left_ne_nil (fun hmap => h (List.map_eq_nil_iff.1 hmap)) _

/-- A reduction as a REDUCE makes it (R138). -/
def State.newReduction (s : State) (owner : Station) (p : ReduceParams) : Reduction :=
  ⟨owner, p, .starting, 0, s.snapshot p p.offset⟩

/-- With posts outgoing a new reduction waits in STARTING (R138). -/
theorem State.beginReduction_waits {s : State} (owner : Station) (p : ReduceParams) (h : s.columns.outgoing ≠ []) :
    s.beginReduction owner p =
      s.withColumns { s.columns with current := some (s.newReduction owner p), nextColumn := 0 } := by
  rw [State.beginReduction]
  exact if_neg h

/-- With nothing outgoing a new reduction begins with its first post composed (R138). -/
theorem State.beginReduction_begins {s : State} (owner : Station) (p : ReduceParams) (h : s.columns.outgoing = []) :
    ∃ post, ((s.newReduction owner p).after post).composes s 0 post
      ∧ s.beginReduction owner p =
        s.withColumns ⟨some ((s.newReduction owner p).after post), post.count, [post]⟩ := by
  obtain ⟨post, hcomposes, hpass⟩ := s.beginPass_composes (s.newReduction owner p)
  refine ⟨post, hcomposes, ?_⟩
  rw [h] at hpass
  rw [State.beginReduction]
  exact (if_pos h).trans hpass

/-- A post that was composed leaves its reduction out of STARTING (R145). -/
theorem Reduction.after_phase_ne_starting (r : Reduction) (post : ColumnsPost) : (r.after post).phase ≠ .starting := by
  unfold Reduction.after
  dsimp only
  split <;> exact fun h => by cases h

/-- What a post is composed of is the store, the sampling record and the copy set (R140, R145). -/
theorem Reduction.composes.of_elsewhere {s t : State} {r : Reduction} {first : Nat} {post : ColumnsPost}
    (h : r.composes t first post) (hview : t.passView r.snapshot = s.passView r.snapshot) : r.composes s first post where
  header := h.header
  count := h.count
  last := h.last
  cells := hview ▸ h.cells
  length := h.length

/-- A node `t` in which a REDUCE made the current reduction `r` of `owner`, with the posts `ended` left of the one before
(R138, R148). -/
structure ReductionMade (s t : State) (owner : Station) (p : ReduceParams) (ended : List ColumnsPost) (r : Reduction) :
    Prop where
  frame : t = { s with columns := t.columns, freeDraws := t.freeDraws }
  current : t.columns.current = some r
  made : r.owner = owner ∧ r.params = p ∧ r.pass = 0 ∧ r.snapshot = s.snapshot p p.offset
  left : ended = (s.endReduction .superseded).columns.outgoing
  waits : ended ≠ [] → r.phase = .starting ∧ t.columns.nextColumn = 0 ∧ t.columns.outgoing = ended
  begins : ended = [] → r.phase ≠ .starting ∧ ∃ post, r.composes s 0 post ∧ r = r.after post
    ∧ t.columns.outgoing = [post] ∧ t.columns.nextColumn = post.count

/-- A taken REDUCE ends the reduction before and makes its own, by whether posts are left of the one before (R138, R148). -/
theorem State.supersede_makes (s : State) (owner : Station) (p : ReduceParams) :
    ∃ ended r, ReductionMade s ((s.endReduction .superseded).beginReduction owner p) owner p ended r := by
  obtain ⟨c, d, hended⟩ : ∃ c d, s.endReduction .superseded = { s with columns := c, freeDraws := d } :=
    ⟨_, _, s.endReduction_frame _⟩
  refine ⟨c.outgoing, ?_⟩
  have hleft : c.outgoing = (s.endReduction .superseded).columns.outgoing := by rw [hended]
  rw [hended]
  by_cases hout : c.outgoing = []
  · obtain ⟨post, hcomposes, hbegins⟩ :=
      State.beginReduction_begins (s := { s with columns := c, freeDraws := d }) owner p hout
    rw [hbegins]
    exact ⟨_, rfl, rfl, ⟨rfl, rfl, rfl, rfl⟩, hleft, fun hposts => absurd hout hposts, fun _ =>
      ⟨Reduction.after_phase_ne_starting _ _, post, hcomposes.of_elsewhere rfl, rfl, rfl, rfl⟩⟩
  · rw [State.beginReduction_waits (s := { s with columns := c, freeDraws := d }) owner p hout]
    exact ⟨_, rfl, rfl, ⟨rfl, rfl, rfl, rfl⟩, hleft, fun _ => ⟨rfl, rfl, rfl⟩, fun hnone => absurd hnone hout⟩

/-- Settles O26, by the current reduction and its owner. -/
theorem reduceCancelJudged : Obligations.ReduceCancelJudged := by
  intro o s h hl
  have hfits : (o.params.length == 0) = true := beq_iff_eq.2 hl
  refine ⟨fun hnone => State.takeOrder_refuses h _ hfits (judgeReduceCancel_none hnone), fun r hr => ⟨fun hown => ?_,
    fun hown => ?_⟩⟩
  · exact State.takeOrder_refuses h _ hfits (judgeReduceCancel_busy hr hown)
  · refine ⟨_, congrArg Host.Outcome.next (State.takeOrder_taken h _ hfits _), ?_⟩
    rw [judgeReduceCancel_taken (s := { s with link := s.heardLink }) hr hown, Judged.settle_eq]
    refine ⟨?_, State.endReduction_current _ _, State.endReduction_nextColumn _ _,
      State.endReduction_outgoing (s := { s with link := s.heardLink }) hr .cancelled⟩
    rw [State.ok, State.endReduction_frame]
    rfl

/-- Settles O25: the snapshot and the view hold by themselves, the order by its verdicts and the reduction it makes. -/
theorem reduceJudged : Obligations.ReduceJudged := by
  refine ⟨State.snapshot_holds, State.passView_holds, fun o s h hl => ?_⟩
  have hfits : (o.params.length == 19) = true := beq_iff_eq.2 hl
  refine ⟨fun hnone => State.takeOrder_refuses h _ hfits (judgeReduce_unfit _ hnone), reduceOf_eq_none,
    exists_reduceOf_reads, fun p hp => ⟨fun r hr hown => ?_, fun hown hlacks => ?_, fun hown hreads => ?_⟩⟩
  · exact State.takeOrder_refuses h _ hfits (judgeReduce_busy hp hr hown)
  · exact State.takeOrder_refuses h _ hfits (judgeReduce_lacks hp hown hlacks)
  · have hj := judgeReduce_taken (s := { s with link := s.heardLink }) hp hown hreads
    obtain ⟨ended, r, hmade⟩ := State.supersede_makes { s with link := s.heardLink } o.sender p
    obtain ⟨hnone, hold⟩ := State.endReduction_leaves { s with link := s.heardLink } .superseded
    have hposts := State.endReduction_keeps_posts (s := { s with link := s.heardLink }) .superseded
    obtain ⟨hframe, hcurrent, ⟨howner, hparams, hpass, hsnapshot⟩, hleft, hwaits, hbegins⟩ := hmade
    rw [← hleft] at hnone hold hposts
    generalize State.beginReduction _ o.sender p = t at hj hframe hcurrent hwaits hbegins
    refine ⟨_, r, ended, congrArg Host.Outcome.next (State.takeOrder_taken h _ hfits _), ?_⟩
    rw [hj, Judged.settle_eq]
    refine ⟨?_, hcurrent, howner, hparams, hpass, hsnapshot, fun hcur hout => (hbegins ((hnone hcur).trans hout)).1,
      fun hout => ?_, hnone, hold, hwaits, fun hempty => ?_⟩
    · dsimp only
      rw [hframe]
      rfl
    · obtain ⟨hphase, hnext, -⟩ := hwaits (hposts hout)
      exact ⟨hphase, hnext⟩
    · obtain ⟨-, post, hcomposes, hpost⟩ := hbegins hempty
      exact ⟨post, hcomposes.of_elsewhere rfl, hpost⟩

end Sys2Proof.Machine

/-! SUPPORT. An empty queue, an idle line, and the reset pin. -/

namespace Sys2Proof.Machine

/-! ## Posts offered -/

/-- The sources that are offered when an instant of the idle line begins (R157, R158). -/
theorem State.mem_readySources (s : State) (source : Source) : source ∈ s.readySources ↔ s.holdsPost source := by
  rw [State.readySources, List.mem_filter, State.ready_iff, and_iff_right (mem_allSources source)]

theorem State.offerReady_busy {s : State} (h : s.link.idleSince = none) : s.offerReady = s :=
  if_neg (by rw [h]; exact Bool.false_ne_true)

theorem State.offerReady_idle {s : State} (h : s.link.idleSince ≠ none) :
    s.offerReady = s.withLink { s.link with offered := s.readySources } :=
  if_pos (Option.isSome_iff_ne_none.2 h)

/-! ## A tick that passes -/

/-- An instant of a tick looks at a pending HOLD sample alone (R12). -/
theorem State.holdInstant_frame (s : State) : s.holdInstant = { s with sampler := s.holdInstant.sampler } := by
  unfold State.holdInstant
  split
  · rfl
  · split <;> rfl

theorem State.holdInstant_none {s : State} (h : s.sampler.hold = none) : s.holdInstant = s := by
  rw [State.holdInstant, h]

/-- The node at the instant after a tick, before posts are offered to the line. -/
def State.ticked (s : State) : State :=
  { s with
    time := ⟨nextTick s.time.tick, s.time.elapsed + 1⟩
    sampler := s.holdInstant.sampler
    counters := s.counters.actGates }

/-- While the reset pin is held the elapsed time alone goes on (R183, log 24). -/
theorem State.passTick_held {s : State} (h : s.resetHeld = true) :
    s.passTick = s.withTime ⟨s.time.tick, s.time.elapsed + 1⟩ := if_pos h

theorem State.passTick_running {s : State} (h : s.resetHeld = false) : s.passTick = s.ticked.offerReady := by
  unfold State.passTick
  rw [if_neg (by rw [h]; exact Bool.false_ne_true), State.holdInstant_frame]
  rfl

/-- The tick counter after one more tick, up to its last value (R166). -/
theorem State.passTick_tick {s : State} (h : s.resetHeld = false) : s.passTick.time.tick = nextTick s.time.tick := by
  rw [State.passTick_running h, State.offerReady]
  split <;> rfl

theorem nextTick_eq_min {t : Nat} (h : t ≤ 2 ^ 48 - 1) : nextTick t = min (t + 1) (2 ^ 48 - 1) := by
  rw [nextTick, Config.tickMax]
  split <;> omega

/-! ## Steps on an empty queue -/

theorem step_of_due {s : State} {c : Instr} (hq : s.pending = []) (hdue : s.dueEvent = some c) : step s = exec c s := by
  simp only [step, hq, hdue]

theorem step_of_none_due {s : State} (hq : s.pending = []) (hdue : s.dueEvent = none) : step s = .next s.passTick := by
  simp only [step, hq, hdue]

/-- Settles O2, by whether the reset pin is held and, if not, by whether the line is idle. -/
theorem emptyQueueTakesADueEventOrATick : Obligations.EmptyQueueTakesADueEventOrATick := by
  refine ⟨fun c s hq hdue => step_of_due hq hdue, fun s hq hdue => ⟨s.passTick, step_of_none_due hq hdue, ?_⟩⟩
  by_cases hr : s.resetHeld = true
  · rw [State.passTick_held hr]
    exact ⟨rfl, rfl, (if_pos hr).symm, fun _ => rfl, fun _ => rfl, rfl, fun _ => rfl,
      fun _ h => absurd hr (by rw [h]; exact Bool.false_ne_true)⟩
  · have hsampler (h : s.sampler.hold = none) : s.holdInstant.sampler = s.sampler := by rw [State.holdInstant_none h]
    rw [State.passTick_running (eq_false_of_ne_true hr)]
    by_cases hidle : s.link.idleSince = none
    · rw [State.offerReady_busy (s := s.ticked) hidle]
      exact ⟨rfl, rfl, (if_neg hr).symm, hsampler, CounterBank.actGates_idle _, rfl, fun _ => rfl,
        fun h => absurd hidle h⟩
    · rw [State.offerReady_idle (s := s.ticked) hidle]
      exact ⟨rfl, rfl, (if_neg hr).symm, hsampler, CounterBank.actGates_idle _, rfl,
        fun h => (h.elim hidle hr).elim, fun _ _ => s.ticked.mem_readySources⟩

/-! ## The idle line -/

/-- Settles O49, by whether the line was idle before. -/
theorem lineIdleLetsTheNodeRun : Obligations.LineIdleLetsTheNodeRun := by
  intro s hr hflight
  have hacts : exec .lineIdle s = .next s.lineIdle :=
    congrArg Host.Outcome.next (if_neg (by rw [hr, hflight]; exact Bool.false_ne_true))
  refine ⟨s.lineIdle, hacts, rfl, fun hidle => if_pos (Option.isSome_iff_ne_none.2 hidle), fun hidle source => ?_⟩
  have hoffered : s.lineIdle.link.offered = s.readySources := if_neg (by rw [hidle]; exact Bool.false_ne_true)
  rw [hoffered]
  exact s.mem_readySources source

/-! ## The reset pin -/

/-- Strap reading 15 latches station 14 (R154). -/
theorem stationOf_val (straps : BitVec 4) : (stationOf straps).val = min straps.toNat 14 := by
  have hlt : straps.toNat < 16 := straps.isLt
  unfold stationOf
  split
  · show straps.toNat = _
    omega
  · show 14 = _
    omega

/-- Settles O53: what the pin leaves, and what its release makes of a node that is held. -/
theorem resetPinAndRelease : Obligations.ResetPinAndRelease := by
  refine fun s => ⟨rfl, fun straps rate hr => ?_⟩
  exact ⟨_, congrArg Host.Outcome.next (if_pos hr), rfl, stationOf_val straps⟩

end Sys2Proof.Machine

/-! SUPPORT. Posts heard: signals and marks received, the receive checks, and the frame that passes them (R156, R162 to R167). -/

namespace Sys2Proof.Machine

/-! ## Signals and marks received -/

/-- A node that receives is out of reset (R155, R183). -/
theorem State.resetHeld_of_receives {s : State} (h : s.receives = true) : s.resetHeld = false := by
  rw [State.receives, Bool.and_eq_true, Bool.not_eq_true'] at h
  exact h.1

theorem exec_signalReceipt {s : State} (h : s.receives = true) (sender : Station) (flags : FlagSet) (origin : BitVec 48) :
    exec (.signalReceipt sender flags origin) s = .next (s.hearPost.receiveSignal sender flags origin.toNat) :=
  congrArg Host.Outcome.next (if_pos h)

theorem exec_mark {s : State} (h : s.receives = true) (sender : Station) (t0 : BitVec 48) :
    exec (.mark sender t0) s = .next (s.hearPost.receiveMark sender t0.toNat) :=
  congrArg Host.Outcome.next (if_pos h)

/-- A receipt changes nothing without a capture or without flags (R165). -/
theorem State.receiveSignal_ignored {s : State} {flags : FlagSet} (h : s.capturing = false ∨ flags = 0) (sender : Station)
    (origin : Nat) : s.receiveSignal sender flags origin = s := by
  refine if_neg ?_
  rw [Bool.and_eq_true, bne_iff_ne]
  rintro ⟨hc, hf⟩
  exact h.elim (fun hn => Bool.false_ne_true (hn.symm.trans hc)) hf

theorem State.receiveSignal_placed {s : State} {flags : FlagSet} (hc : s.capturing = true) (hf : flags ≠ 0)
    (sender : Station) (origin : Nat) :
    s.receiveSignal sender flags origin = s.withStore (s.store.addReceipt ⟨senderOf sender, flags, origin, s.tick⟩) := by
  refine if_pos ?_
  rw [Bool.and_eq_true, bne_iff_ne]
  exact ⟨hc, hf⟩

/-- The newest entry stands last. -/
theorem mergeLast_append (r e : SignalEntry) (rest : List SignalEntry) : mergeLast r (rest ++ [e]) = rest ++ [e.merge r] := by
  induction rest with
  | nil => rfl
  | cons x rest ih =>
    obtain ⟨y, l, hl⟩ := List.exists_cons_of_ne_nil (List.append_ne_nil_of_right_ne_nil rest (List.cons_ne_nil e []))
    rw [List.cons_append, List.cons_append, ← ih, hl]
    rfl

/-- A receipt joins while fewer than eight wait (R22). -/
theorem Store.addReceipt_joins {st : Store} (h : st.placement.length < 8) (r : SignalEntry) :
    st.addReceipt r = { st with placement := st.placement ++ [r] } := by
  rw [Store.addReceipt, if_pos h]

/-- A receipt merges into the newest entry when eight wait (R22). -/
theorem Store.addReceipt_merges {st : Store} (h : 8 ≤ st.placement.length) {rest : List SignalEntry} {e : SignalEntry}
    (hlast : st.placement = rest ++ [e]) (r : SignalEntry) :
    st.addReceipt r = { st with placement := rest ++ [e.merge r] } := by
  rw [Store.addReceipt, if_neg (Nat.not_lt.2 h), hlast, mergeLast_append]

theorem SignalEntry.merge_receipt (e : SignalEntry) (sender : Station) (flags : FlagSet) (origin tick : Nat) :
    e.merge ⟨senderOf sender, flags, origin, tick⟩ =
      ⟨if e.sender.val = sender.val then e.sender else 15, e.flags ||| flags, min e.origin origin, tick⟩ := by
  unfold SignalEntry.merge
  simp only [Fin.ext_iff, senderOf]

/-- Settles O33, by whether a capture runs and by the length of the placement list. -/
theorem signalReceiptIsPlaced : Obligations.SignalReceiptIsPlaced := by
  intro sender flags origin s hr
  rw [exec_signalReceipt hr, State.hearPost_eq]
  refine ⟨fun h => ?_, fun hc hf hlt => ?_, fun rest e hc hf hlt hlast => ?_⟩
  · rw [State.receiveSignal_ignored (s := { s with link := s.heardLink }) h]
  · rw [State.receiveSignal_placed (s := { s with link := s.heardLink }) hc hf, Store.addReceipt_joins hlt]
    rfl
  · rw [State.receiveSignal_placed (s := { s with link := s.heardLink }) hc hf, Store.addReceipt_merges hlt hlast,
      SignalEntry.merge_receipt]
    rfl

theorem NoticeSet.setEpochSkipped_eq (n : NoticeSet) (d : EpochSkippedDetails) :
    n.setEpochSkipped d =
      { n with epochSkipped := some d, setAgain := n.setAgain || n.flying == some .epochSkipped } := by
  rw [NoticeSet.setEpochSkipped, NoticeSet.noteSetting_eq]

/-- Settles O34, by whether a capture runs. -/
theorem markSetsTheTickOrIsSkipped : Obligations.MarkSetsTheTickOrIsSkipped := by
  intro sender t0 s hr
  rw [exec_mark hr, State.hearPost_eq]
  refine ⟨fun hc => ⟨congrArg Host.Outcome.next (if_neg ?_), ?_⟩, fun hc => ?_⟩
  · show ¬s.capturing = true
    rw [hc]
    exact Bool.false_ne_true
  · have hlt : t0.toNat < 2 ^ 48 := t0.isLt
    rw [State.passTick_tick (s := { s with link := s.heardLink, time := ⟨t0.toNat, s.time.elapsed⟩ })
      (State.resetHeld_of_receives hr)]
    exact nextTick_eq_min (Nat.le_sub_one_of_lt hlt)
  · refine congrArg Host.Outcome.next ((if_pos hc).trans ?_)
    simp only [State.withNotices, NoticeSet.setEpochSkipped_eq]
    rfl

/-! ## The receive checks -/

/-- The bytes that spell a post (R156, R162). -/
theorem readPost_eq_some {bytes : List Byte} {p : HeardPost} :
    readPost bytes = some p ↔ ∃ b0 b1 b2 rest, bytes = b0 :: b1 :: b2 :: rest ∧ b2.toNat ≤ 128
      ∧ b2.toNat + 2 ≤ rest.length
      ∧ p = ⟨bitsOf b0 5 3, bitsOf b0 1 4, bitsOf b0 0 1 == 1, b1.toNat, rest.take b2.toNat⟩ := by
  constructor
  · intro h
    unfold readPost at h
    split at h
    · rename_i b0 b1 b2 rest
      rw [Option.ite_none_left_eq_some, not_or, Nat.not_lt, Nat.not_lt, Option.some.injEq] at h
      obtain ⟨⟨hmax, hlong⟩, hp⟩ := h
      exact ⟨b0, b1, b2, rest, rfl, hmax, hlong, hp.symm⟩
    · cases h
  · rintro ⟨b0, b1, b2, rest, rfl, hmax, hlong, rfl⟩
    exact if_neg (not_or.2 ⟨Nat.not_lt.2 hmax, Nat.not_lt.2 hlong⟩)

/-- The header of a post stands as R162 says. -/
theorem HeardPost.stands_iff (p : HeardPost) :
    p.stands = true ↔ p.sender < 15 ∧ p.dest ≤ 15 ∧ (p.allFlag = true ↔ p.dest = 15)
      ∧ (p.cls = 1 → p.payload.length = 7) ∧ (p.cls = 0 → p.payload.length = 6) := by
  have hall : (p.allFlag == (p.dest == 15)) = true ↔ (p.allFlag = true ↔ p.dest = 15) := by
    rw [beq_iff_eq, Bool.eq_iff_iff, beq_iff_eq]
  simp only [HeardPost.stands, Bool.and_eq_true, Bool.or_eq_true, decide_eq_true_eq, hall, bne_iff_ne, beq_iff_eq,
    imp_iff_not_or, ne_eq, and_assoc]

theorem acceptPost_eq_some {bytes : List Byte} {p : HeardPost} :
    acceptPost bytes = some p ↔ readPost bytes = some p ∧ checkMatches bytes p.payload.length = true ∧ p.stands = true := by
  unfold acceptPost
  cases readPost bytes with
  | none => simp
  | some q =>
    simp only [Option.ite_none_right_eq_some, Bool.and_eq_true, Option.some.injEq]
    exact ⟨fun ⟨h, e⟩ => ⟨e, e ▸ h⟩, fun ⟨e, h⟩ => ⟨e ▸ h, e⟩⟩

/-- What a post that passes the receive checks holds (R156, R162). -/
theorem accepted_post_fields {bytes : List Byte} {p : HeardPost} (h : acceptPost bytes = some p) :
    p.payload.length ≤ 128 ∧ p.payload.length + 5 ≤ bytes.length
      ∧ p.payload = (bytes.drop 3).take (bytes.getD 2 0).toNat ∧ p.payload.length = (bytes.getD 2 0).toNat := by
  obtain ⟨hread, -, -⟩ := acceptPost_eq_some.1 h
  obtain ⟨b0, b1, b2, rest, rfl, hmax, hlong, rfl⟩ := readPost_eq_some.1 hread
  have hlength : (rest.take b2.toNat).length = b2.toNat := List.length_take_of_le (by omega)
  refine ⟨hlength.trans_le hmax, ?_, rfl, hlength⟩
  simp only [hlength, List.length_cons]
  omega

/-! ## Posts that the node does not take -/

theorem exec_postDiscarded_fails {s : State} (h : s.receives = true) {bytes : List Byte} (hb : acceptPost bytes = none) :
    exec (.postDiscarded bytes) s = .next s.hearPost := by
  show execPostDiscarded bytes s = _
  rw [execPostDiscarded, if_pos h, hb]

theorem exec_postDiscarded_passes {s : State} (h : s.receives = true) {bytes : List Byte} {p : HeardPost}
    (hb : acceptPost bytes = some p) : exec (.postDiscarded bytes) s = deliverPost p s := by
  show execPostDiscarded bytes s = _
  rw [execPostDiscarded, if_pos h, hb]

/-- A post of a class that no station takes from the line is set aside (R162). -/
theorem deliverPost_otherClass {p : HeardPost} (h0 : p.cls ≠ 0) (h1 : p.cls ≠ 1) (h3 : p.cls ≠ 3) (s : State) :
    deliverPost p s = .next s.hearPost := by
  unfold deliverPost
  split
  · exact absurd ‹_› h0
  · exact absurd ‹_› h1
  · exact absurd ‹_› h3
  · rfl

/-- An ORDER post for another station is set aside (R162). -/
theorem deliverPost_elsewhere {p : HeardPost} {s : State} (h3 : p.cls = 3) (hall : p.dest ≠ 15)
    (hother : p.dest ≠ s.link.station.val) : deliverPost p s = .next s.hearPost := by
  rw [deliverPost, h3]
  exact if_neg (not_or.2 ⟨hall, hother⟩)

/-- Settles O35: what becomes of the bytes by the checks and by the class, then what an accepted post holds. -/
theorem postsAreDiscardedOrSetAside : Obligations.PostsAreDiscardedOrSetAside := by
  refine ⟨fun bytes s hr => ⟨exec_postDiscarded_fails hr, fun p hp => ⟨fun h0 h1 h3 => ?_, fun h3 hall hother => ?_⟩⟩,
    fun bytes p hp => ?_⟩
  · rw [exec_postDiscarded_passes hr hp, deliverPost_otherClass h0 h1 h3, State.hearPost_eq]
  · rw [exec_postDiscarded_passes hr hp, deliverPost_elsewhere h3 hall hother, State.hearPost_eq]
  · obtain ⟨-, hcheck, hstands⟩ := acceptPost_eq_some.1 hp
    obtain ⟨hmax, hlong, hpayload, hlength⟩ := accepted_post_fields hp
    exact ⟨hmax, hlong, hpayload, hlength, beq_iff_eq.1 hcheck, p.stands_iff.1 hstands⟩

/-! ## The frame of a post -/

theorem beBytes_length (w n : Nat) : (beBytes w n).length = w := by
  induction w with
  | zero => rfl
  | succ w ih => rw [beBytes, List.length_cons, ih]

/-- A number that fits a byte is read back from it. -/
theorem byteOf_toNat_of_lt {n : Nat} (h : n < 256) : (byteOf n).toNat = n :=
  (BitVec.toNat_ofNat n 8).trans (Nat.mod_eq_of_lt h)

/-- The first byte of a post: class, sender and all-flag (R156). -/
def headByte (cls : Nat) (sender : Station) (toAll : Bool) : Byte :=
  byteOf (cls * 32 + sender.val * 2 + toAll.toNat)

section HeadByte
variable {cls : Nat} (hcls : cls < 8) (sender : Station) (toAll : Bool)
include hcls

theorem headByte_toNat : (headByte cls sender toAll).toNat = cls * 32 + sender.val * 2 + toAll.toNat := by
  have hs := sender.isLt
  have ha := toAll.toNat_lt
  exact byteOf_toNat_of_lt (by omega)

theorem headByte_class : bitsOf (headByte cls sender toAll) 5 3 = cls := by
  have hs := sender.isLt
  have ha := toAll.toNat_lt
  rw [bitsOf, headByte_toNat hcls]
  omega

theorem headByte_sender : bitsOf (headByte cls sender toAll) 1 4 = sender.val := by
  have hs := sender.isLt
  have ha := toAll.toNat_lt
  rw [bitsOf, headByte_toNat hcls]
  omega

theorem headByte_allFlag : (bitsOf (headByte cls sender toAll) 0 1 == 1) = toAll := by
  rw [bitsOf_flag_low, headByte_toNat hcls]
  cases toAll <;> simp <;> omega

end HeadByte

/-- The bytes of a post before its check (R156). -/
def postFront (cls : Nat) (sender : Station) (dest : Option Station) (payload : List Byte) : List Byte :=
  headByte cls sender dest.isNone :: stationByte dest :: byteOf payload.length :: payload

theorem framePost_eq (cls : Nat) (sender : Station) (dest : Option Station) (payload : List Byte) :
    framePost cls sender dest payload =
      postFront cls sender dest payload ++ beBytes 2 (postCheck (postFront cls sender dest payload)).toNat := by
  have hfront : postFront cls sender dest payload =
      [byteOf (cls * 32 + sender.val * 2 + (if dest.isNone then 1 else 0)), stationByte dest, byteOf payload.length]
        ++ payload := by
    cases dest <;> rfl
  rw [hfront]
  rfl

/-- Bytes before a check of two bytes match it when it is theirs (R156). -/
theorem checkMatches_append (front : List Byte) {n : Nat} (h : front.length = n + 3) :
    checkMatches (front ++ beBytes 2 (postCheck front).toNat) n = true := by
  rw [checkMatches, List.drop_left' h, List.take_left' h, List.take_of_length_le (beBytes_length 2 _).le]
  exact beq_self_eq_true _

/-- The destination byte names a station, or 15 for all (R156). -/
theorem stationByte_toNat (dest : Option Station) :
    (stationByte dest).toNat = dest.elim 15 Fin.val := by
  cases dest with
  | none => rfl
  | some d => exact byteOf_toNat_of_lt (d.isLt.trans (by decide))

/-- Settles O36: the bytes are read back field by field, the check is theirs, and the header stands. -/
theorem framedPostsAreAccepted : Obligations.FramedPostsAreAccepted := by
  intro cls sender dest payload hcls hmax hsignal hmark
  have hlength : (byteOf payload.length).toNat = payload.length := byteOf_toNat_of_lt (by omega)
  rw [framePost_eq]
  refine acceptPost_eq_some.2 ⟨readPost_eq_some.2 ⟨_, _, _, _, rfl, ?_, ?_, ?_⟩, checkMatches_append _ rfl, ?_⟩
  · rw [hlength]
    exact hmax
  · rw [hlength, List.append_eq, List.length_append, beBytes_length]
  · rw [headByte_class hcls, headByte_sender hcls, headByte_allFlag hcls, stationByte_toNat, hlength, List.append_eq,
      List.take_left]
    cases dest <;> rfl
  · refine (HeardPost.stands_iff _).2 ⟨sender.isLt, ?_, ?_, hsignal, hmark⟩
    · cases dest with
      | none => exact Nat.le_refl _
      | some d => exact d.isLt.le
    · cases dest with
      | none => simp
      | some d => simpa using d.isLt.ne

end Sys2Proof.Machine

/-! SUPPORT. The end of a post: what is cleared of its source when it was sent in full (R159). -/

namespace Sys2Proof.Machine

/-! ## The post in flight -/

section Flight
variable {s : State} {f : Flight} (hf : s.link.flight = some f)
include hf

theorem State.flightWhen_holds {p : Flight → Nat → Bool} (h : p f s.time.elapsed = true) : s.flightWhen p = some f := by
  rw [State.flightWhen, hf, Option.filter_some, if_pos h]

theorem State.flightWhen_fails {p : Flight → Nat → Bool} (h : ¬p f s.time.elapsed = true) : s.flightWhen p = none := by
  rw [State.flightWhen, hf, Option.filter_some, if_neg h]

end Flight

/-- The instant at which bit times of a post have passed (R154, R185). -/
theorem LinkController.bitEnd_eq (l : LinkController) (f : Flight) (n : Nat) :
    l.bitEnd f n = f.started + n * ([64, 32, 16, 8] : List Nat).getD l.rate.toNat 0 := by
  rw [LinkController.bitEnd, bitTicks_eq]

theorem LinkController.ended_iff (l : LinkController) (f : Flight) (now : Nat) :
    l.ended f now = true
      ↔ f.started + 9 * f.bytes.length * ([64, 32, 16, 8] : List Nat).getD l.rate.toNat 0 ≤ now := by
  rw [LinkController.ended, LinkController.bitEnd_eq, decide_eq_true_eq]

/-- The Link Controller after a post was sent in full, whatever its source (R159, R160). -/
def State.sentLink (s : State) : LinkController := { s.link with flight := none, collisions := 0, idleSince := none }

theorem exec_sentInFull_early {s : State} {f : Flight} (hf : s.link.flight = some f)
    (h : ¬s.link.ended f s.time.elapsed = true) : exec .sentInFull s = .next s := by
  show execSentInFull s = _
  rw [execSentInFull, State.flightWhen_fails hf h]

theorem exec_sentInFull_ended {s : State} {f : Flight} (hf : s.link.flight = some f)
    (h : s.link.ended f s.time.elapsed = true) :
    exec .sentInFull s = .next ((s.withLink s.sentLink).sourceSent f.source) := by
  show execSentInFull s = _
  rw [execSentInFull, State.flightWhen_holds hf h]
  rfl

/-! ## Notices -/

theorem NoticeSet.remove_holds (n : NoticeSet) (k k' : NoticeKind) :
    (n.remove k).holds k' = (n.holds k' && k' != k) := by
  cases k <;> cases k' <;> simp [NoticeSet.remove, NoticeSet.holds]

/-- What a set holds does not depend on the post in flight. -/
theorem NoticeSet.holds_landed (n : NoticeSet) (k : NoticeKind) :
    NoticeSet.holds { n with flying := none, setAgain := false } k = n.holds k := by
  cases k <;> rfl

/-- A NOTICE post sent in full clears its kind unless it was set again (R177). -/
theorem NoticeSet.sent_holds {n : NoticeSet} {k : NoticeKind} (h : n.flying = some k) (k' : NoticeKind) :
    n.sent.holds k' = (n.holds k' && (k' != k || n.setAgain)) := by
  rw [NoticeSet.sent, h]
  dsimp only
  rw [NoticeSet.holds_landed]
  by_cases hagain : n.setAgain = true
  · rw [if_pos hagain, hagain, Bool.or_true, Bool.and_true]
  · rw [if_neg hagain, eq_false_of_ne_true hagain, Bool.or_false, NoticeSet.remove_holds]

theorem NoticeSet.sent_flying (n : NoticeSet) : n.sent.flying = none := by
  unfold NoticeSet.sent
  split
  · assumption
  · rfl

/-! ## Answers -/

theorem State.answerSent_cons {s : State} {a : Answer} {rest : List Answer} (h : s.orders.answers = a :: rest) :
    s.answerSent = { s with orders := { s.orders with answers := rest }, readout := s.readout.answered a } := by
  rw [State.answerSent, h]
  rfl

/-! ## The outgoing list -/

section Columns
variable {s : State} {p : ColumnsPost} {rest : List ColumnsPost} (hout : s.columns.outgoing = p :: rest)
include hout

theorem State.columnsSent_alone (hcur : s.columns.current = none) :
    s.columnsSent = s.withColumns { s.columns with outgoing := rest } := by
  simp only [State.columnsSent, hout, hcur]

theorem State.columnsSent_own {r : Reduction} (hcur : s.columns.current = some r) (hown : p.ofCurrent = true) :
    s.columnsSent = (s.withColumns { s.columns with outgoing := rest }).ownPostSent r p := by
  simp only [State.columnsSent, hout, hcur, hown, if_true]

theorem State.columnsSent_other {r : Reduction} (hcur : s.columns.current = some r) (hown : p.ofCurrent = false) :
    s.columnsSent = (s.withColumns { s.columns with outgoing := rest }).startIfClear := by
  simp only [State.columnsSent, hout, hcur, hown, Bool.false_eq_true, if_false]

end Columns

section OwnPost
variable {s : State} {r : Reduction} {p : ColumnsPost}

theorem State.ownPostSent_goesOn (hlast : p.last = none) (hphase : r.phase = .passing) :
    s.ownPostSent r p = s.composeColumns r := by
  rw [State.ownPostSent, hlast]
  exact if_pos hphase

theorem State.ownPostSent_waits (hlast : p.last = none) (hphase : r.phase ≠ .passing) : s.ownPostSent r p = s := by
  rw [State.ownPostSent, hlast]
  exact if_neg hphase

/-- After its last post a pass waits for the next one, or its reduction is over (R145, R151). -/
theorem State.ownPostSent_last (hlast : p.last ≠ none) :
    s.ownPostSent r p = s.withColumns
      { s.columns with
        current :=
          if r.params.repeatCode ≠ 0 ∧ r.snapshot.live = true then
            some { r with phase := .waiting (s.time.elapsed + r.params.repeatCode * 4000000) }
          else none } := by
  obtain ⟨why, hwhy⟩ := Option.ne_none_iff_exists'.1 hlast
  have hrepeats : r.repeats = true ↔ r.params.repeatCode ≠ 0 ∧ r.snapshot.live = true := by simp [Reduction.repeats]
  simp only [State.ownPostSent, hwhy]
  by_cases h : r.repeats = true
  · rw [if_pos h, if_pos (hrepeats.1 h)]
  · rw [if_neg h, if_neg (h ∘ hrepeats.2)]

end OwnPost

/-- The next post of a pass is composed on the list (R145). -/
theorem State.composeColumns_composes (s : State) (r : Reduction) :
    ∃ post, r.composes s s.columns.nextColumn post
      ∧ (s.composeColumns r).columns =
        ⟨some (r.after post), s.columns.nextColumn + post.count, s.columns.outgoing ++ [post]⟩ :=
  ⟨s.nextPost r, s.nextPost_composes r, rfl⟩

/-- The reduction that begins its pass from STARTING: with a snapshot taken afresh (R140, R146, log 19). -/
def State.freshReduction (s : State) (r : Reduction) : Reduction :=
  { r with snapshot := s.snapshot r.params r.snapshot.window }

section StartIfClear
variable {s : State} {r : Reduction} (hcur : s.columns.current = some r)
include hcur

theorem State.startIfClear_begins (hphase : r.phase = .starting) (hout : s.columns.outgoing = []) :
    s.startIfClear = s.beginPass (s.freshReduction r) := by
  simp only [State.startIfClear, hcur]
  exact if_pos ⟨hphase, hout⟩

theorem State.startIfClear_stays (h : r.phase ≠ .starting ∨ s.columns.outgoing ≠ []) : s.startIfClear = s := by
  simp only [State.startIfClear, hcur]
  exact if_neg (fun ⟨hphase, hout⟩ => h.elim (· hphase) (· hout))

end StartIfClear

/-- The engine `e` after the post `p` at the head of the outgoing list was sent in full, `rest` being the others, where `r` is
the current reduction (R138, R145, R146, R147, R151). -/
structure HeadSent (s : State) (p : ColumnsPost) (rest : List ColumnsPost) (r : Reduction) (e : ColumnEngine) : Prop where
  goesOn : p.ofCurrent = true → p.last = none → r.phase = .passing →
    ∃ post, r.composes s s.columns.nextColumn post
      ∧ e = ⟨some (r.after post), s.columns.nextColumn + post.count, rest ++ [post]⟩
  closes : p.ofCurrent = true → p.last = none → r.phase ≠ .passing → e = { s.columns with outgoing := rest }
  last : p.ofCurrent = true → p.last ≠ none →
    e = { s.columns with
      outgoing := rest
      current :=
        if r.params.repeatCode ≠ 0 ∧ r.snapshot.live = true then
          some { r with phase := .waiting (s.time.elapsed + r.params.repeatCode * 4000000) }
        else none }
  begins : p.ofCurrent = false → r.phase = .starting → rest = [] →
    ∃ (r' : Reduction) (post : ColumnsPost), r'.owner = r.owner ∧ r'.params = r.params ∧ r'.pass = r.pass
      ∧ r'.snapshot = s.snapshot r.params r.snapshot.window ∧ r'.composes s 0 post
      ∧ e = ⟨some (r'.after post), post.count, [post]⟩
  stays : p.ofCurrent = false → (r.phase ≠ .starting ∨ rest ≠ []) → e = { s.columns with outgoing := rest }

theorem State.columnsSent_head {s : State} {p : ColumnsPost} {rest : List ColumnsPost} {r : Reduction}
    (hout : s.columns.outgoing = p :: rest) (hcur : s.columns.current = some r) :
    HeadSent s p rest r s.columnsSent.columns where
  goesOn hown hlast hphase := by
    obtain ⟨post, hcomposes, hcolumns⟩ :=
      (s.withColumns { s.columns with outgoing := rest }).composeColumns_composes r
    refine ⟨post, hcomposes.of_elsewhere rfl, ?_⟩
    rw [State.columnsSent_own hout hcur hown, State.ownPostSent_goesOn hlast hphase, hcolumns]
    rfl
  closes hown hlast hphase := by
    rw [State.columnsSent_own hout hcur hown, State.ownPostSent_waits hlast hphase, State.withColumns_columns]
  last hown hlast := by
    rw [State.columnsSent_own hout hcur hown, State.ownPostSent_last hlast]
    rfl
  begins hown hphase hempty := by
    obtain ⟨post, hcomposes, hpass⟩ :=
      (s.withColumns { s.columns with outgoing := rest }).beginPass_composes (s.freshReduction r)
    refine ⟨(s.freshReduction r).after post, post, rfl, rfl, rfl, rfl, hcomposes.of_elsewhere rfl, ?_⟩
    rw [State.columnsSent_other hout hcur hown,
      State.startIfClear_begins (s := s.withColumns { s.columns with outgoing := rest }) hcur hphase hempty]
    refine (congrArg State.columns hpass).trans ?_
    rw [hempty]
    rfl
  stays hown h := by
    rw [State.columnsSent_other hout hcur hown,
      State.startIfClear_stays (s := s.withColumns { s.columns with outgoing := rest }) hcur h, State.withColumns_columns]

/-! ## Streamed records -/

/-- The age of the oldest record is judged afresh when a STREAM post was sent (R129, R130). -/
theorem Streamer.postSent_aged (st : Streamer) (now : Nat) :
    (st.postSent now).ageReached = true ↔ (st.postSent now).aged now :=
  Streamer.ageLimitReached_iff _ now

theorem State.streamSent_few {s : State} (h : (s.streamer.lostAt s.time.elapsed).length < 2) :
    s.streamSent = s.withStreamer (s.streamer.postSent s.time.elapsed) := if_pos h

/-- Of several records lost at this instant some may have come after the places were freed (R125, log 40). -/
theorem State.streamSent_several {s : State} (h : 2 ≤ (s.streamer.lostAt s.time.elapsed).length) :
    ∃ later < (s.streamer.lostAt s.time.elapsed).length,
      s.streamSent = (s.withFreeDraws (s.freeDraws + 1)).withStreamer
        ((s.streamer.postSent s.time.elapsed).freedBetween s.time.elapsed later) :=
  ⟨_, Nat.mod_lt (Config.freeLater s.freeDraws) (by omega), if_neg (Nat.not_lt.2 h)⟩

/-- Settles O51, by whether the post's bit times have passed and, when they have, by its source. -/
theorem sentInFullClearsTheSource : Obligations.SentInFullClearsTheSource := by
  intro s f hf ends link
  have hended : s.link.ended f s.time.elapsed = true ↔ ends ≤ s.time.elapsed := LinkController.ended_iff _ _ _
  refine ⟨fun h => exec_sentInFull_early hf (fun he => Nat.not_lt.2 (hended.1 he) h), fun h => ?_⟩
  rw [exec_sentInFull_ended hf (hended.2 h)]
  have hcolumns : (s.withLink link).columnsSent =
      { s with link := link, columns := (s.withLink link).columnsSent.columns } := State.columnsSent_frame _
  refine ⟨fun hsrc => ?_, fun k hsrc hk => ?_, fun a rest hsrc hlist => ?_, fun hsrc hfits => ?_,
    fun p rest hsrc hout => ?_, fun hsrc => ?_, fun p hsrc hp => ?_⟩ <;> rw [hsrc]
  · rfl
  · exact ⟨_, rfl, rfl, NoticeSet.sent_flying _, NoticeSet.sent_holds hk⟩
  · refine congrArg Host.Outcome.next ((State.answerSent_cons (s := s.withLink link) hlist).trans ?_)
    cases hr : s.readout <;> simp [Readout.answered, hr]
  · exact ⟨_, rfl, hcolumns, State.columnsSent_fits _ hfits⟩
  · refine ⟨_, rfl, hcolumns, fun hcur => ?_, fun r hcur => ?_⟩
    · exact congrArg State.columns (State.columnsSent_alone (s := s.withLink link) hout hcur)
    · obtain ⟨hgoesOn, hcloses, hlast, hbegins, hstays⟩ := State.columnsSent_head (s := s.withLink link) hout hcur
      refine ⟨fun hown hnone hphase => ?_, hcloses, hlast, fun hown hphase hempty => ?_, hstays⟩
      · obtain ⟨post, hcomposes, hpost⟩ := hgoesOn hown hnone hphase
        exact ⟨post, hcomposes.of_elsewhere rfl, hpost⟩
      · obtain ⟨r', post, howner, hparams, hpass, hsnapshot, hcomposes, hpost⟩ := hbegins hown hphase hempty
        exact ⟨r', post, howner, hparams, hpass, hsnapshot, hcomposes.of_elsewhere rfl, hpost⟩
  · refine ⟨_, rfl, State.streamSent_frame (s.withLink link), s.streamer.postSent s.time.elapsed, rfl,
      Streamer.postSent_aged _ _, fun hfew => ?_, fun hseveral => ?_⟩
    · have hsent := State.streamSent_few (s := s.withLink link) hfew
      exact ⟨congrArg State.streamer hsent, (congrArg State.freeDraws hsent :)⟩
    · obtain ⟨later, hlater, hsent⟩ := State.streamSent_several (s := s.withLink link) hseveral
      exact ⟨(congrArg State.freeDraws hsent :), later, hlater, congrArg State.streamer hsent⟩
  · show Host.Outcome.next ((s.withLink link).withReadout s.readout.sent) = _
    rw [hp]
    rfl

end Sys2Proof.Machine

/-! SUPPORT. Posts that came back: what a withdrawal and a collision leave (R157, R159 to R161, R164, R178, R130, R132). -/

namespace Sys2Proof.Machine

/-! ## When a mismatch can come -/

theorem LinkController.inByteZero_iff (l : LinkController) (f : Flight) (now : Nat) :
    l.inByteZero f now = true
      ↔ f.started + 1 * ([64, 32, 16, 8] : List Nat).getD l.rate.toNat 0 ≤ now
        ∧ now ≤ f.started + 9 * ([64, 32, 16, 8] : List Nat).getD l.rate.toNat 0 := by
  rw [LinkController.inByteZero, LinkController.bitEnd_eq, LinkController.bitEnd_eq, decide_eq_true_eq]

theorem LinkController.pastByteZero_iff (l : LinkController) (f : Flight) (now : Nat) :
    l.pastByteZero f now = true
      ↔ f.started + 10 * ([64, 32, 16, 8] : List Nat).getD l.rate.toNat 0 ≤ now
        ∧ now ≤ f.started + 9 * f.bytes.length * ([64, 32, 16, 8] : List Nat).getD l.rate.toNat 0 := by
  rw [LinkController.pastByteZero, LinkController.bitEnd_eq, LinkController.bitEnd_eq, decide_eq_true_eq]

/-- The node with the post off the line and back at its source (R159). -/
def State.postBack (s : State) (f : Flight) : State := (s.withLink s.link.landed).sourceReturned f.source

section Mismatch
variable {s : State} {f : Flight} (hf : s.link.flight = some f)
include hf

theorem exec_withdrawn_notDue (h : ¬s.link.inByteZero f s.time.elapsed = true) : exec .withdrawn s = .next s := by
  show execWithdrawn s = _
  rw [execWithdrawn, State.flightWhen_fails hf h]

theorem exec_withdrawn_due (h : s.link.inByteZero f s.time.elapsed = true) :
    exec .withdrawn s = .next (s.postBack f) := by
  show execWithdrawn s = _
  rw [execWithdrawn, State.flightWhen_holds hf h]
  rfl

theorem exec_collision_notDue (h : ¬s.link.pastByteZero f s.time.elapsed = true) : exec .collision s = .next s := by
  show execCollision s = _
  rw [execCollision, State.flightWhen_fails hf h]

theorem exec_collision_due (h : s.link.pastByteZero f s.time.elapsed = true) :
    exec .collision s = .next (s.collide f) := by
  show execCollision s = _
  rw [execCollision, State.flightWhen_holds hf h]

end Mismatch

/-! ## The source has its own again -/

/-- The records of a post that a discard marked are lost when it comes back (R132). -/
theorem State.streamReturned_eq (s : State) :
    s.streamReturned = { s with
      streamer := s.streamer.postReturned s.time.elapsed
      orders := { s.orders with
        notices := s.orders.notices.withLoss
          (s.streamer.discardMarked = true ∧ s.streamer.queue.take s.streamer.inFlight ≠ []) } } := by
  have hremoves : s.streamer.returnRemoves = true
      ↔ s.streamer.discardMarked = true ∧ s.streamer.queue.take s.streamer.inFlight ≠ [] := by
    rw [Streamer.returnRemoves, Bool.and_eq_true, bne_iff_ne]
  unfold State.streamReturned NoticeSet.withLoss
  dsimp only
  by_cases h : s.streamer.returnRemoves = true
  · rw [if_pos h, if_pos (hremoves.1 h), ← NoticeSet.setDecodeLoss_eq]
    rfl
  · rw [if_neg h, if_neg (h ∘ hremoves.2)]
    rfl

theorem Streamer.postReturned_kept {st : Streamer} (h : st.discardMarked = false) (now : Nat) :
    st.postReturned now = { st with inFlight := 0 } :=
  if_neg (by rw [h]; exact Bool.false_ne_true)

/-- Records that a discard marked leave the queue with their post and count as lost (R132). -/
theorem Streamer.postReturned_removed {st : Streamer} (h : st.discardMarked = true) (now : Nat) :
    st.postReturned now = { st with
        queue := st.queue.drop st.inFlight, losses := (st.postReturned now).losses, inFlight := 0,
        discardMarked := false, ageReached := (st.postReturned now).ageReached }
      ∧ lossesAfter st.losses (st.queue.take st.inFlight) (st.postReturned now).losses
      ∧ ((st.postReturned now).ageReached = true ↔ (st.postReturned now).aged now) := by
  rw [Streamer.postReturned, if_pos h]
  exact ⟨rfl, countRemoved_after _ _, Streamer.ageLimitReached_iff _ now⟩

/-- What comes back of a post, by its source (R159, R164, R178, R130, R132). -/
theorem State.postBack_back (s : State) (f : Flight) : PostBack s f (s.postBack f) := by
  obtain ⟨source, bytes, started⟩ := f
  cases source with
  | signal =>
    exact {
      frame := rfl, orders := rfl, link := rfl, signal := fun _ => ⟨rfl, rfl, rfl, rfl⟩
      notSignal := fun h => absurd rfl h, stream := nofun, removed := nofun, notStream := fun _ => rfl }
  | stream =>
    show PostBack s _ (s.withLink s.link.landed).streamReturned
    rw [State.streamReturned_eq]
    exact {
      frame := rfl, orders := rfl, link := rfl, signal := nofun, notSignal := fun _ => ⟨rfl, rfl, rfl⟩
      stream := fun _ hkept => Streamer.postReturned_kept hkept _
      removed := fun _ hmarked => Streamer.postReturned_removed hmarked _
      notStream := fun h => absurd rfl h }
  | notice | answer | columns | records =>
    exact {
      frame := rfl, orders := rfl, link := rfl, signal := nofun, notSignal := fun _ => ⟨rfl, rfl, rfl⟩
      stream := nofun, removed := nofun, notStream := fun _ => rfl }

theorem State.postBack_notices (s : State) (f : Flight) : (s.postBack f).orders.notices = s.noticesBack f := by
  unfold State.postBack State.noticesBack
  cases hsrc : f.source with
  | stream =>
    show (s.withLink s.link.landed).streamReturned.orders.notices = _
    rw [State.streamReturned_eq]
    rfl
  | _ => rfl

/-- The return of a post leaves the collision count, the link state, the retry wait and the fault record (R159). -/
theorem State.postBack_keeps (s : State) (f : Flight) :
    (s.postBack f).link.collisions = s.link.collisions ∧ (s.postBack f).link.state = s.link.state
      ∧ (s.postBack f).link.retryWait = s.link.retryWait ∧ (s.postBack f).orders.fault = s.orders.fault := by
  unfold State.postBack
  cases f.source with
  | stream =>
    show _ ∧ _ ∧ _ ∧ (s.withLink s.link.landed).streamReturned.orders.fault = _
    rw [State.sourceReturned, State.streamReturned_eq]
    exact ⟨rfl, rfl, rfl, rfl⟩
  | _ => exact ⟨rfl, rfl, rfl, rfl⟩

/-! ## Collisions -/

/-- What comes back of a post says nothing of the collision count, the retry wait, the link state and the fault report. -/
theorem PostBack.withReport {s t : State} {f : Flight} (h : PostBack s f t) (state : LinkState) (collisions : Nat)
    (retryWait : Bool) (notices : NoticeSet) (fault : Option FaultRecord) :
    PostBack s f { t with
      link := { t.link with state := state, collisions := collisions, retryWait := retryWait }
      orders := { t.orders with notices := notices, fault := fault } } := by
  obtain ⟨hframe, horders, hlink, hsignal, hnotSignal, hstream, hremoved, hnotStream⟩ := h
  refine ⟨?_, ?_, ?_, hsignal, hnotSignal, hstream, hremoved, hnotStream⟩
  · rw [hframe]
  · rw [horders]
  · rw [hlink]

/-- The first collision in a row raises the count and sets the retry wait (R160). -/
theorem State.collide_first {s : State} (f : Flight) (h : s.link.collisions = 0) :
    s.collide f =
      (s.postBack f).withLink { (s.postBack f).link with collisions := 1, retryWait := true } := by
  obtain ⟨hcollisions, -, -, -⟩ := s.postBack_keeps f
  exact if_pos (hcollisions.trans h)

/-- A further collision brings LINK_FAULT, with its fault report and its notice (R161, R180). -/
theorem State.collide_again {s : State} (f : Flight) (h : s.link.collisions ≠ 0) :
    s.collide f = { s.postBack f with
      link := { (s.postBack f).link with
        state := .linkFault, collisions := s.link.collisions + 1, retryWait := s.link.retryWait }
      orders := { (s.postBack f).orders with
        notices := (s.noticesBack f).setFault
        fault := some (faultReport s.orders.fault s.time.tick f.source.cls s.capture.state) } } := by
  obtain ⟨hcollisions, -, hretry, hfault⟩ := s.postBack_keeps f
  have htime : (s.postBack f).time = s.time := by rw [(s.postBack_back f).frame]
  have hcapture : (s.postBack f).capture = s.capture := by rw [(s.postBack_back f).frame]
  rw [← s.postBack_notices f, ← hcollisions, ← hretry, ← hfault, ← htime, ← hcapture]
  exact if_neg (hcollisions ▸ h)

/-- A fault report is written into a record that is empty or was read (R180). -/
theorem faultReport_afresh {r : Option FaultRecord} (h : r = none ∨ ∃ x, r = some x ∧ x.read = true) (tick cls : Nat)
    (capture : CapState) : faultReport r tick cls capture = ⟨tick, cls, capture, 0, false⟩ := by
  obtain rfl | ⟨x, rfl, hread⟩ := h
  · rfl
  · exact if_pos hread

/-- An unread record counts the further faults (R180). -/
theorem faultReport_further {x : FaultRecord} (h : x.read = false) (tick cls : Nat) (capture : CapState) :
    faultReport (some x) tick cls capture = { x with further := min 255 (x.further + 1) } :=
  if_neg (by rw [h]; exact Bool.false_ne_true)

/-- Settles O52, by the bit at which the mismatch comes and by the collision count. -/
theorem withdrawnAndCollidedPostsReturn : Obligations.WithdrawnAndCollidedPostsReturn := by
  intro s f hf bit ends
  have hzero : s.link.inByteZero f s.time.elapsed = true
      ↔ f.started + 1 * bit ≤ s.time.elapsed ∧ s.time.elapsed ≤ f.started + 9 * bit := LinkController.inByteZero_iff _ _ _
  have hpast : s.link.pastByteZero f s.time.elapsed = true
      ↔ f.started + 10 * bit ≤ s.time.elapsed ∧ s.time.elapsed ≤ ends := LinkController.pastByteZero_iff _ _ _
  have hback := s.postBack_back f
  have hnotices := s.postBack_notices f
  obtain ⟨hcollisions, hstate, hretry, hfault⟩ := s.postBack_keeps f
  refine ⟨fun h => exec_withdrawn_notDue hf (fun hin => ?_), fun hfrom hto => ?_,
    fun h => exec_collision_notDue hf (fun hin => ?_), fun hfrom hto => ?_⟩
  · obtain ⟨hfrom, hto⟩ := hzero.1 hin
    exact h.elim (Nat.not_lt.2 hfrom) (Nat.not_lt.2 hto)
  · exact ⟨_, exec_withdrawn_due hf (hzero.2 ⟨hfrom, hto⟩), hback, hcollisions, hstate, hretry, hnotices, hfault⟩
  · obtain ⟨hfrom, hto⟩ := hpast.1 hin
    exact h.elim (Nat.not_lt.2 hfrom) (Nat.not_lt.2 hto)
  · refine ⟨_, exec_collision_due hf (hpast.2 ⟨hfrom, hto⟩), ?_⟩
    by_cases hcount : s.link.collisions = 0
    · rw [State.collide_first f hcount]
      exact ⟨hback.withReport _ _ _ _ _, fun _ => ⟨rfl, rfl, hstate, hfault, hnotices⟩, fun hne => absurd hcount hne⟩
    · rw [State.collide_again f hcount]
      refine ⟨hback.withReport _ _ _ _ _, fun h => absurd h hcount, fun _ => ⟨rfl, rfl, rfl, rfl, rfl,
        fun hempty => congrArg some (faultReport_afresh hempty _ _ _), fun r hr hunread => ?_⟩⟩
      simp only [hr, faultReport_further hunread]

end Sys2Proof.Machine

/-! SUPPORT. Which posts a node does not hear, and what every order meets before its own rule (R54, R155, R171 to R174, R183). -/

namespace Sys2Proof.Machine

/-! ## Posts that are not heard -/

/-- A held node receives nothing (R183). -/
theorem State.receives_held {s : State} (h : s.resetHeld = true) : s.receives = false := by
  rw [State.receives, h]
  rfl

/-- A joining node receives nothing (R155). -/
theorem State.receives_joining {s : State} (h : s.link.state = .joining) : s.receives = false := by
  rw [State.receives, h]
  exact Bool.and_false _

section Unheard
variable {s : State} (h : s.receives = false)
include h

/-- What a command does only for a node that receives, it does not do for one that does not. -/
theorem State.ite_receives (t : State) : (if s.receives then t else s) = s := by
  rw [h, if_neg Bool.false_ne_true]

theorem State.takeOrder_unheard (code : Byte) (o : OrderPost) (fits : Bool) (judge : State → Judged) :
    s.takeOrder code o fits judge = s := State.ite_receives h _

theorem State.takeReset_unheard (o : OrderPost) : s.takeReset o = s := State.ite_receives h _

theorem execUnknownOrder_unheard (sender : Station) (toAll : Bool) (payload : List Byte) :
    execUnknownOrder sender toAll payload s = .next s := by
  unfold execUnknownOrder
  split
  · rw [State.takeOrder_unheard h]
  · rw [State.ite_receives h]

theorem execPostDiscarded_unheard (bytes : List Byte) : execPostDiscarded bytes s = .next s := by
  rw [execPostDiscarded, h, if_neg Bool.false_ne_true]

end Unheard

/-! ## Orders -/

/-- The command is the ORDER post `o` of a code, taken by that code's rule with the length judged by `fits` (R171). -/
def TakenAs (i : Instr) (code : Byte) (o : OrderPost) (fits : Bool) : Prop :=
  ∃ judge, ∀ s, exec i s = .next (s.takeOrder code o fits judge)

/-- Every order of R171's table but RESET is taken by its code and its length. -/
theorem takenAs_of_fixedLength {i : Instr} {code : Byte} {n : Nat} {o : OrderPost}
    (h : fixedLength i = some (code, n, o)) :
    (i = .reset o ∧ code = 0x15 ∧ n = 0) ∨ TakenAs i code o (o.params.length == n) := by
  cases i with
  | reset o => cases h; exact .inl ⟨rfl, rfl, rfl⟩
  | configureChannels o | setSampling o | setCapture o | setCounter o | loadBegin o | arm o | forceTrigger o | abort o
  | release o | streamOn o | streamOff o | reduce o | reduceCancel o | readRecords o | search o | query o | readFault o
  | clearFault o => cases h; exact .inr ⟨_, fun _ => rfl⟩
  | setDecoder _ | loadPart _ | standby _ | unknownOrder _ _ _ | signalReceipt _ _ _ | mark _ _ | postDiscarded _
  | transition _ _ | sample | activeEdge | holdSampleDue | delayLineDue | interlockedTimeout _ | counterExpiry _
  | counterOverflow _ | depth | noTrigger | timeLimit | loadTimeout | batchTimeout | repeatTimerExpiry | readBuild
  | searchWalkEnd | lineIdle | postStart | sentInFull | withdrawn | collision | resetPin | resetPinRelease _ _ => cases h

/-- Every order that a full answer list may turn away names nothing, or is taken by its code (R171). -/
theorem takenAs_of_turnedAway {i : Instr} {toAll : Bool} (h : turnedAway i = some toAll) :
    (∃ sender payload, i = .unknownOrder sender toAll payload)
      ∨ ∃ code o fits, TakenAs i code o fits ∧ o.toAll = toAll := by
  cases i with
  | unknownOrder sender all payload => cases h; exact .inl ⟨sender, payload, rfl⟩
  | configureChannels o | setSampling o | setCapture o | setCounter o | setDecoder o | loadBegin o | loadPart o | arm o
  | forceTrigger o | abort o | release o | standby o | streamOn o | streamOff o | reduce o | reduceCancel o
  | readRecords o | search o | query o | readFault o | clearFault o =>
    exact .inr ⟨_, o, _, ⟨_, fun _ => rfl⟩, Option.some.inj h⟩
  | reset _ | signalReceipt _ _ _ | mark _ _ | postDiscarded _ | transition _ _ | sample | activeEdge | holdSampleDue
  | delayLineDue | interlockedTimeout _ | counterExpiry _ | counterOverflow _ | depth | noTrigger | timeLimit
  | loadTimeout | batchTimeout | repeatTimerExpiry | readBuild | searchWalkEnd | lineIdle | postStart | sentInFull
  | withdrawn | collision | resetPin | resetPinRelease _ _ => cases h

/-- No post reaches a node that receives nothing. -/
theorem exec_post_unheard {i : Instr} (hi : isPost i = true) {s : State} (h : s.receives = false) : exec i s = .next s := by
  have order {j : Instr} (hj : (turnedAway j).isSome = true) : exec j s = .next s := by
    obtain ⟨toAll, htoAll⟩ := Option.isSome_iff_exists.1 hj
    obtain ⟨sender, payload, rfl⟩ | ⟨code, o, fits, ⟨judge, htaken⟩, -⟩ := takenAs_of_turnedAway htoAll
    · exact execUnknownOrder_unheard h sender toAll payload
    · rw [htaken, State.takeOrder_unheard h]
  unfold isPost isOrder at hi
  split at hi
  · exact congrArg Host.Outcome.next (State.ite_receives h _)
  · exact congrArg Host.Outcome.next (State.ite_receives h _)
  · exact execPostDiscarded_unheard h _
  split at hi
  · exact congrArg Host.Outcome.next (State.takeReset_unheard h _)
  · exact order hi

/-! ## Events of a held node -/

section Held
variable {s : State} (hr : s.resetHeld = true)
include hr

theorem State.gridDue_held : s.gridDue = false := by simp [State.gridDue, hr]

theorem State.edgeDue_held : s.edgeDue = none := if_pos (by rw [hr]; rfl)

theorem State.holdDue_held : s.holdDue = none := if_pos (by rw [hr]; rfl)

theorem State.delayDue_held : s.delayDue = none := if_pos (by rw [hr]; rfl)

theorem State.activeEdge_held : s.activeEdge = s := by rw [State.activeEdge, s.edgeDue_held hr]

/-- No sample is due in a held node (R183). -/
theorem State.dueSample_held : s.dueSample = none := by
  simp [State.dueSample, s.gridDue_held hr, s.holdDue_held hr, s.delayDue_held hr, s.activeEdge_held hr]

theorem State.tickCountDue_held (k : Fin 4) (modes : List CounterMode) : s.tickCountDue k modes = false := by
  simp [State.tickCountDue, hr]

theorem State.armLimitDue_held : s.armLimitDue = false := by simp [State.armLimitDue, hr]

theorem State.tickLimitDue_held : s.tickLimitDue = false := by simp [State.tickLimitDue, hr]

theorem State.loadGapDue_held : s.loadGapDue = false := by simp [State.loadGapDue, hr]

theorem State.batchDue_held : s.batchDue = false := by simp [State.batchDue, hr]

theorem State.repeatDue_held : s.repeatDue = none := if_pos hr

theorem State.mayStart_held : s.mayStart = false := by simp [State.mayStart, hr]

/-- With nothing in flight no ending comes to a held node, and no other event either (R183, log 24). -/
theorem exec_event_held (hf : s.link.flight = none) {i : Instr} (hpost : isPost i = false) (hi : actsInReset i = false) :
    exec i s = .next s := by
  have flightWhen (p : Flight → Nat → Bool) : s.flightWhen p = none := by rw [State.flightWhen, hf, Option.filter_none]
  have skips {due : Bool} (hdue : due = false) (t : State) :
      (Host.Outcome.next (if due then t else s) : Host.Outcome State Fault Refusal) = .next s := by
    rw [hdue, if_neg Bool.false_ne_true]
  cases i with
  | sample => exact skips (s.gridDue_held hr) _
  | activeEdge => exact congrArg Host.Outcome.next (s.activeEdge_held hr)
  | holdSampleDue =>
    show execHoldSampleDue s = _
    rw [execHoldSampleDue, s.holdDue_held hr]
  | delayLineDue =>
    show execDelayLineDue s = _
    rw [execDelayLineDue, s.delayDue_held hr]
  | interlockedTimeout slot =>
    show execInterlockedTimeout slot s = _
    rw [execInterlockedTimeout, s.dueSample_held hr, Option.getD_none, ite_self]
  | counterExpiry k => exact skips (s.tickCountDue_held hr k _) _
  | counterOverflow k => exact skips (s.tickCountDue_held hr k _) _
  | depth => exact congrArg Host.Outcome.next (if_pos (by rw [hr]; rfl))
  | noTrigger => exact skips (s.armLimitDue_held hr) _
  | timeLimit => exact skips (s.tickLimitDue_held hr) _
  | loadTimeout => exact skips (s.loadGapDue_held hr) _
  | batchTimeout => exact skips (s.batchDue_held hr) _
  | repeatTimerExpiry =>
    show execRepeatTimerExpiry s = _
    rw [execRepeatTimerExpiry, s.repeatDue_held hr]
  | readBuild =>
    show execReadBuild s = _
    unfold execReadBuild
    split
    · rw [hr, Bool.true_or, if_pos rfl]
    all_goals rfl
  | searchWalkEnd =>
    show execSearchWalkEnd s = _
    unfold execSearchWalkEnd
    split
    · rw [if_pos hr]
    all_goals rfl
  | lineIdle => exact congrArg Host.Outcome.next (if_pos (by rw [hr]; rfl))
  | postStart => exact skips (s.mayStart_held hr) _
  | sentInFull =>
    show execSentInFull s = _
    rw [execSentInFull, flightWhen]
  | withdrawn =>
    show execWithdrawn s = _
    rw [execWithdrawn, flightWhen]
  | collision =>
    show execCollision s = _
    rw [execCollision, flightWhen]
  | transition _ _ | resetPin | resetPinRelease _ _ => cases hi
  | configureChannels _ | setSampling _ | setCapture _ | setCounter _ | setDecoder _ | loadBegin _ | loadPart _ | arm _
  | forceTrigger _ | abort _ | release _ | standby _ | streamOn _ | streamOff _ | reduce _ | reduceCancel _
  | readRecords _ | search _ | query _ | readFault _ | clearFault _ | reset _ | unknownOrder _ _ _ | signalReceipt _ _ _
  | mark _ _ | postDiscarded _ => cases hpost

end Held

/-- Settles O5: a post is not received, by the pin or by JOINING, and every other event needs a node out of reset or a post in
flight. -/
theorem unheardCommandsChangeNothing : Obligations.UnheardCommandsChangeNothing := by
  refine ⟨fun i s hr hf hi => ?_, fun i s hj hi => exec_post_unheard hi (s.receives_joining hj)⟩
  cases hpost : isPost i with
  | true => exact exec_post_unheard hpost (s.receives_held hr)
  | false => exact exec_event_held hr hf hpost hi

/-! ## What every order meets before its own rule -/

/-- Outside STANDBY, what comes before the judging of an order leaves nothing but the busy line (R54, R154). -/
theorem State.hearPost_leaveStandby {s : State} (hs : s.capture.state ≠ .standby) :
    s.hearPost.leaveStandby = { s with link := s.heardLink } := State.leaveStandby_eq (s := s.hearPost) hs

/-- An order for the node alone finds no place in a full answer list (R171 step 2). -/
theorem State.takeOrder_full {s : State} {o : OrderPost} (hr : s.receives = true) (hs : s.capture.state ≠ .standby)
    (hfull : 4 ≤ s.orders.answers.length) (hall : o.toAll = false) (code : Byte) (fits : Bool) (judge : State → Judged) :
    s.takeOrder code o fits judge = { s with link := s.heardLink } := by
  rw [State.takeOrder, if_pos hr, State.hearPost_leaveStandby hs, State.dispatchOrder, hall]
  exact if_pos (decide_eq_true hfull)

/-- A post without a tag brings the return from standby and no more (R54, R171 step 1). -/
theorem exec_unknownOrder_untagged {s : State} (hr : s.receives = true) (hs : s.capture.state ≠ .standby) (sender : Station)
    (toAll : Bool) {payload : List Byte} (hshort : payload.length < 2) :
    exec (.unknownOrder sender toAll payload) s = .next { s with link := s.heardLink } := by
  match payload with
  | [] | [_] => rw [← State.hearPost_leaveStandby hs]; exact congrArg Host.Outcome.next (if_pos hr)
  | _ :: _ :: _ => exact absurd hshort (Nat.not_lt.2 (Nat.le_add_left 2 _))

/-- Settles O7: an order that is taken by its code finds no place, and one that names nothing either. -/
theorem fullAnswerListTurnsOrdersAway : Obligations.FullAnswerListTurnsOrdersAway := by
  intro i s hi hr hs hfull
  obtain ⟨sender, payload, rfl⟩ | ⟨code, o, fits, ⟨judge, htaken⟩, hall⟩ := takenAs_of_turnedAway hi
  · match payload with
    | [] | [_] => exact exec_unknownOrder_untagged hr hs sender false (by simp)
    | code :: tag :: params =>
      exact congrArg Host.Outcome.next (State.takeOrder_full (o := ⟨sender, false, tag, params⟩) hr hs hfull rfl _ _ _)
  · rw [htaken, State.takeOrder_full hr hs hfull hall]

/-- An answer to all stations is discarded (R173). -/
theorem State.onlyAnswered_toAll (s : State) {o : OrderPost} (hall : o.toAll = true) (code : Byte) (status : Status)
    (index : Nat) : s.onlyAnswered o code status index = { s with link := s.heardLink } := by
  rw [State.onlyAnswered, State.ordersWith, State.answersWith, if_pos hall]

/-- A ready RESET of the wrong length is answered LENGTH; a full list, which only one to all stations may find, changes nothing of
that (R171, R173, log 29). -/
theorem State.takeReset_length {s : State} {o : OrderPost} (h : s.orderReady o) (hl : o.params.length ≠ 0) :
    s.takeReset o = s.onlyAnswered o 0x15 .length 0 := by
  obtain ⟨hr, hs, hplace⟩ := h
  rw [State.takeReset, if_pos hr]
  dsimp only
  rw [if_neg hl, State.hearPost_leaveStandby hs, State.refuseReset]
  split
  · rename_i hfull
    have hall : o.toAll = true := hplace.resolve_right (Nat.not_lt.2 (of_decide_eq_true hfull))
    rw [State.onlyAnswered_toAll s hall]
  · exact State.refuse_settle s .length 0x15 o

/-- Settles O8: RESET by its own rule, every other order as `State.takeOrder` judges the length. -/
theorem wrongLengthIsAnsweredLength : Obligations.WrongLengthIsAnsweredLength := by
  intro i code n o s hi h hl
  obtain ⟨rfl, rfl, rfl⟩ | ⟨judge, htaken⟩ := takenAs_of_fixedLength hi
  · exact congrArg Host.Outcome.next (State.takeReset_length h hl)
  · rw [htaken, beq_false_of_ne hl, State.takeOrder_length h]

/-- Settles O9, by whether the order has a tag. -/
theorem unknownOrderIsAnsweredUnknown : Obligations.UnknownOrderIsAnsweredUnknown :=
  ⟨fun _ code _ h _ => congrArg Host.Outcome.next (State.takeOrder_refused h code _ .unknown rfl),
    fun sender toAll _ _ hshort hr hs => exec_unknownOrder_untagged hr hs sender toAll hshort⟩

end Sys2Proof.Machine

/-! SUPPORT. The fault record, the RESET order, and the node right after reset (R136, R181 to R183). -/

namespace Sys2Proof.Machine

/-! ## The node right after reset -/

/-- The reset state is what a reset makes of itself, so it is within the bounds. -/
theorem State.reset_bounded : State.reset.bounded := State.resetNode_bounded State.reset (Nat.zero_le _)

/-- A FREE engine with nothing outgoing. -/
theorem ColumnEngine.reset_listFits : ColumnEngine.reset.listFits := ⟨Nat.zero_le 3, nofun⟩

/-- Settles O60, invariant by invariant. -/
theorem resetMeetsTheInvariants : Obligations.ResetMeetsTheInvariants :=
  ⟨State.reset_bounded, ColumnEngine.reset_listFits⟩

/-! ## READ_FAULT and CLEAR_FAULT -/

section Fault
variable {o : OrderPost} {s : State} (h : s.orderReady o) (hl : o.params.length = 0)
include h hl

/-- A READ_FAULT of the right length answers the record with its read indication and marks it read (R181, log 43). -/
theorem exec_readFault :
    exec (.readFault o) s = .next { s with
      link := s.heardLink
      orders := { s.orders with
        fault := s.orders.fault.map (fun f => { f with read := true })
        answers := s.answersWith o 0x13 .ok 0
          (faultFields s.orders.fault ++ [flagByte (faultRead s.orders.fault)]) false } } := by
  refine congrArg Host.Outcome.next ?_
  rw [State.takeOrder_taken h _ (beq_iff_eq.2 hl), Judged.settle_eq]
  rfl

/-- A CLEAR_FAULT of an empty record changes nothing (R181). -/
theorem exec_clearFault_empty (hf : s.orders.fault = none) :
    exec (.clearFault o) s = .next (s.onlyAnswered o 0x14 .ok 0) := by
  have hj : judgeClearFault { s with link := s.heardLink } = State.ok { s with link := s.heardLink } :=
    if_pos (Option.isNone_iff_eq_none.2 hf)
  refine congrArg Host.Outcome.next ?_
  rw [State.takeOrder_taken h _ (beq_iff_eq.2 hl), hj, Judged.settle_eq]
  rfl

/-- A CLEAR_FAULT empties a held record and takes its notice back (R181). -/
theorem exec_clearFault_held {f : FaultRecord} (hf : s.orders.fault = some f) :
    exec (.clearFault o) s = .next { s with
      link := s.heardLink
      orders := { s.ordersWith o 0x14 .ok 0 with
        fault := none
        notices := { s.orders.notices with fault := false } } } := by
  have hj : judgeClearFault { s with link := s.heardLink }
      = (State.withOrders { s with link := s.heardLink }
          { s.orders with fault := none, notices := s.orders.notices.remove .fault }).ok :=
    if_neg (by rw [hf]; exact Bool.false_ne_true)
  refine congrArg Host.Outcome.next ?_
  rw [State.takeOrder_taken h _ (beq_iff_eq.2 hl), hj, Judged.settle_eq]
  rfl

end Fault

/-- Settles O31, by whether the fault record is held. -/
theorem faultOrders : Obligations.FaultOrders := by
  intro o s h hl
  refine ⟨fun hf => ⟨?_, exec_clearFault_empty h hl hf⟩, fun f hf => ⟨?_, exec_clearFault_held h hl hf⟩⟩
  · rw [exec_readFault h hl]
    simp only [hf, Option.map_none]
    rfl
  · rw [exec_readFault h hl, hf]
    rfl

/-! ## RESET -/

/-- What a RESET restores is not touched by the post that brings it nor by the return from standby (R54, R182). -/
theorem State.resetByOrder_heard (s : State) : s.hearPost.leaveStandby.resetByOrder = s.resetByOrder := rfl

/-- A RESET of the right length, in STANDBY or not and whatever the answer list holds (R171 step 2, R182). -/
theorem State.takeReset_resets {s : State} {o : OrderPost} (hr : s.receives = true) (hl : o.params.length = 0) :
    s.takeReset o = s.resetByOrder.ok.settle 0x15 o := by
  rw [State.takeReset, if_pos hr]
  dsimp only
  rw [if_pos hl, State.resetByOrder_heard]

/-- The notices after a RESET: PRESENT, and FAULT for an unread record (R182, R183). -/
theorem State.resetByOrder_holds (s : State) (k : NoticeKind) :
    s.resetByOrder.orders.notices.holds k = (k == .present || (k == .fault && faultUnread s.orders.fault)) := by
  show (if faultUnread s.orders.fault then NoticeSet.reset.setFault else NoticeSet.reset).holds k = _
  cases faultUnread s.orders.fault with
  | true => cases k <;> rfl
  | false => rw [if_neg Bool.false_ne_true, NoticeSet.reset_holds, Bool.and_false, Bool.or_false]

/-- Settles O32: the answer joins the reset node's empty list, and the notices are those of the reset node. -/
theorem resetOrderRestoresTheNode : Obligations.ResetOrderRestoresTheNode := by
  intro o s hr hl
  refine ⟨s.resetByOrder.ok.settle 0x15 o, congrArg Host.Outcome.next (State.takeReset_resets hr hl), ?_, fun k => ?_⟩
  · rw [Judged.settle_eq]
    rfl
  · rw [Judged.settle_eq]
    refine (s.resetByOrder_holds k).trans ?_
    cases s.orders.fault <;> rfl

end Sys2Proof.Machine

/-! SUPPORT. The result of a QUERY, field by field (R175, R176). -/

namespace Sys2Proof.Machine

/-! ## Kinds of fields -/

/-- The length of fields is the sum of their widths. -/
theorem fieldBytes_length (fields : List (Nat × Nat)) : (fieldBytes fields).length = (fields.map Prod.fst).sum := by
  induction fields with
  | nil => rfl
  | cons f fields ih => rw [fieldBytes_cons, List.length_append, beBytes_length, ih, List.map_cons, List.sum_cons]

/-- A number one below a multiple of the field's range has all its bits set in the field. -/
theorem beBytes_of_dvd_succ {w n : Nat} (h : 256 ^ w ∣ n + 1) : beBytes w n = absentBytes w := by
  induction w with
  | zero => rfl
  | succ w ih =>
    have hlow : 256 ^ w ∣ n + 1 := (pow_dvd_pow 256 w.le_succ).trans h
    have hhigh : 256 ∣ n / 256 ^ w + 1 := by
      rw [← Nat.succ_div_of_dvd hlow]
      exact Nat.dvd_div_of_mul_dvd h
    have hbyte : BitVec.ofNat 8 (n / 256 ^ w) = 0xFF := by
      refine BitVec.eq_of_toNat_eq ?_
      rw [BitVec.toNat_ofNat]
      show _ % 256 = 255
      omega
    rw [beBytes, hbyte, ih hlow]
    rfl

/-- A field that may be absent (R176). -/
@[simp] theorem fieldBytes_fieldOr (w : Nat) (n : Option Nat) (fields : List (Nat × Nat)) :
    fieldBytes (fieldOr w n :: fields) = beOption w n ++ fieldBytes fields := by
  have hones : beBytes w (2 ^ (8 * w) - 1) = absentBytes w := by
    refine beBytes_of_dvd_succ ?_
    rw [Nat.sub_add_cancel Nat.one_le_two_pow, pow_mul]
    exact dvd_refl _
  rw [fieldOr, fieldBytes_cons]
  cases n with
  | none => rw [Option.getD_none, hones]; rfl
  | some n => rfl

/-- A field of two's complement (R170). -/
@[simp] theorem fieldBytes_signedField (w : Nat) (i : Int) (fields : List (Nat × Nat)) :
    fieldBytes (signedField w i :: fields) = beSigned w i ++ fieldBytes fields := by
  rw [beSigned_eq_fieldBytes, ← fieldBytes_append, List.singleton_append]

theorem flagByte_eq (b : Bool) : flagByte b = byteOf b.toNat := by cases b <;> rfl

theorem stationByte_eq (x : Option Station) : stationByte x = byteOf ((x.map Fin.val).getD 15) := by cases x <;> rfl

theorem stepsOf_eq (ticks step : Nat) (up : Bool) : stepsOf ticks step up = inSteps ticks step up := by
  cases up <;> by_cases h : ticks % step = 0 <;> simp [stepsOf, inSteps, h]

/-! ## The parts -/

/-- CAPTURE (R58, R6, R14), by the two sampling modes. -/
theorem State.queryCapture_eq (s : State) (up : Bool) : s.queryCapture = fieldBytes (s.partFields up 0) := by
  cases hset : s.sampler.settings.mode <;> cases hrec : s.sampler.record.mode <;>
    simp [State.queryCapture, State.partFields, flagByte_eq, stationByte_eq, SampleMode.code, byteOf, State.tick, hset, hrec]

/-- STORE (R31), by the readout job. -/
theorem State.queryStore_eq (s : State) (up : Bool) : s.queryStore = fieldBytes (s.partFields up 1) := by
  cases hjob : s.readout <;>
    simp [State.queryStore, State.partFields, Readout.code, byteOf, Store.oldest, hjob]

theorem Counter.query_eq (c : Counter) : c.query = fieldBytes c.fields := by
  cases hmode : c.settings.mode <;> simp [Counter.query, Counter.fields, CounterMode.code, byteOf, hmode]

/-- COUNTERS (R76). -/
theorem State.queryCounters_eq (s : State) (up : Bool) : s.queryCounters = fieldBytes (s.partFields up 2) := by
  simp [State.queryCounters, State.partFields, Counter.query_eq, Quad.toList, Quad.get]

/-- SEQUENCER (R98), by whether the current stage has an ALTERNATE. -/
theorem State.querySequencer_eq (s : State) (up : Bool) : s.querySequencer = fieldBytes (s.partFields up 3) := by
  obtain hstage | ⟨st, hstage⟩ := Option.eq_none_or_eq_some s.seq.currentStage
  · rw [Sequencer.currentStage] at hstage
    simp [State.querySequencer, State.partFields, Sequencer.currentStage, byteOption, flagByte_eq, stationByte_eq, hstage]
  · rw [Sequencer.currentStage] at hstage
    obtain ⟨primary, alternate⟩ := st
    cases alternate <;>
      simp [State.querySequencer, State.partFields, Sequencer.currentStage, byteOption, flagByte_eq, stationByte_eq, hstage]

/-- Bit position, bits held or pending repeat, by kind and phase (R121, log 16). -/
theorem Slot.progress_eq (d : Slot) : d.progress = d.progressNow := by
  unfold Slot.progress Slot.progressNow
  cases d.kind with
  | off | strobed _ => cases d.phase <;> rfl
  | async _ | clocked _ =>
    cases d.phase with
    | inWord w => cases w <;> rfl
    | stopped | hunting | recovering => rfl

theorem Slot.startTick_eq (d : Slot) : d.startTick = d.wordStart := by
  unfold Slot.startTick Slot.wordStart
  cases d.phase with
  | inWord w => cases w <;> rfl
  | stopped | hunting | recovering => rfl

theorem Slot.query_eq (d : Slot) : d.query = fieldBytes d.fields := by
  cases hkind : d.kind <;> cases hphase : d.phase <;>
    simp [Slot.query, Slot.fields, byteOption, DecoderKind.code, Phase.code, Slot.progress_eq, Slot.startTick_eq, byteOf,
      hkind, hphase]

/-- DECODERS (R121). -/
theorem State.queryDecoders_eq (s : State) (up : Bool) : s.queryDecoders = fieldBytes (s.partFields up 4) := by
  simp [State.queryDecoders, State.partFields, Slot.query_eq, Quad.toList, Quad.get]

/-- STREAM (R134), by whether a record waits; its age rounds as the free value says (log 15). -/
theorem State.queryStream_eq (s : State) :
    s.queryStream = fieldBytes (s.partFields (Config.freeRoundsUp s.freeDraws) 5) := by
  cases hqueue : s.streamer.queue <;>
    simp [State.queryStream, State.partFields, Streamer.oldestAge, byteOption, flagByte_eq, stationByte_eq, stepsOf_eq,
      Quad.toList, Quad.get, hqueue]

/-- The absent fields of a FREE engine stand one after the other (R153, log 16). -/
theorem absentBytes_of_free : absentBytes 24
    = absentBytes 1 ++ (absentBytes 2 ++ (absentBytes 1 ++ (absentBytes 7
      ++ (absentBytes 6 ++ (absentBytes 6 ++ absentBytes 1))))) := rfl

/-- REDUCTION (R153), by the current reduction and its phase; the repeat time left rounds as the free value says (log 15). -/
theorem State.queryReduction_eq (s : State) :
    s.queryReduction = fieldBytes (s.partFields (Config.freeRoundsUp s.freeDraws) 6) := by
  cases hcur : s.columns.current with
  | none => simp [State.queryReduction, State.partFields, beOption, absentBytes_of_free, stationByte_eq, byteOf, hcur]
  | some r =>
    cases hphase : r.phase <;>
      simp [State.queryReduction, State.partFields, State.repeatLeft, ReducePhase.code, ReduceParams.width,
        ReduceParams.cells, byteOption, flagByte_eq, stepsOf_eq, byteOf, hcur, hphase]

/-- LINK (R169). -/
theorem State.queryLink_eq (s : State) (up : Bool) : s.queryLink = fieldBytes (s.partFields up 7) := by
  simp [State.queryLink, State.partFields, flagByte_eq]

/-- The part that a code names holds the fields of R176, rounded as the free value says (log 15). -/
theorem State.queryPart_eq (s : State) (code : Nat) :
    s.queryPart code = fieldBytes (s.partFields (Config.freeRoundsUp s.freeDraws) code) := by
  match code with
  | 0 => exact s.queryCapture_eq _
  | 1 => exact s.queryStore_eq _
  | 2 => exact s.queryCounters_eq _
  | 3 => exact s.querySequencer_eq _
  | 4 => exact s.queryDecoders_eq _
  | 5 => exact s.queryStream_eq
  | 6 => exact s.queryReduction_eq
  | _ + 7 => exact s.queryLink_eq (Config.freeRoundsUp s.freeDraws)

@[simp] theorem fieldOr_width (w : Nat) (n : Option Nat) : (fieldOr w n).1 = w := rfl

@[simp] theorem signedField_width (w : Nat) (i : Int) : (signedField w i).1 = w := rfl

theorem Counter.fields_width (c : Counter) : (c.fields.map Prod.fst).sum = 6 := rfl

theorem Slot.fields_width (d : Slot) : (d.fields.map Prod.fst).sum = 10 := rfl

/-- The widths of a part's fields (R176). -/
theorem State.partFields_width (s : State) (up : Bool) {code : Nat} (h : code ≤ 7) :
    ((s.partFields up code).map Prod.fst).sum = [26, 33, 25, 15, 40, 15, 30, 12].getD code 0 := by
  match code with
  | 2 => simp [State.partFields, Counter.fields_width]
  | 4 => simp [State.partFields, Slot.fields_width]
  | 6 => cases hcur : s.columns.current <;> simp [State.partFields, hcur]
  | 0 | 1 | 3 | 5 | 7 => simp [State.partFields]
  | _ + 8 => omega

/-! ## The common part -/

theorem LinkState.code_eq (l : LinkState) : l.code = if l = .linkFault then 1 else 0 := by cases l <;> rfl

/-- The common part with the levels as detected and the kinds pending (R176). -/
theorem State.queryCommon_eq (s : State) (code : Byte) :
    s.queryCommon code = [code, s.capture.state.code, s.capture.reason.code] ++ beBytes 6 s.time.tick
      ++ beBytes 2 s.pfe.rawLevels.toNat ++ beBytes 2 s.pfe.activity.toNat ++ beBytes 2 s.orders.notices.bits
      ++ [if s.link.state = .linkFault then 1 else 0] := by
  rw [← LinkState.code_eq]
  rfl

theorem State.queryCommon_length (s : State) (code : Byte) : (s.queryCommon code).length = 16 := by
  simp [State.queryCommon, beBytes_length]

/-! ## QUERY -/

/-- The parts that round a time draw one free value (logs 15 and 32). -/
theorem State.drawForQuery_eq (s : State) (code : Byte) :
    s.drawForQuery code =
      { s with freeDraws := s.freeDraws + (if code.toNat = 5 ∨ code.toNat = 6 then 1 else 0) } := by
  have hrounds : code = 5 ∨ code = 6 ↔ code.toNat = 5 ∨ code.toNat = 6 := by
    rw [← BitVec.toNat_inj, ← BitVec.toNat_inj]
    rfl
  unfold State.drawForQuery
  split
  · rw [if_pos (hrounds.1 ‹_›)]
    rfl
  · rw [if_neg (mt hrounds.2 ‹_›)]
    rfl

/-- The result does not tell that the line is busy with the order itself (R176). -/
theorem State.queryResult_heard (s : State) (code : Byte) :
    State.queryResult { s with link := s.heardLink } code = s.queryCommon code ++ s.queryPart code.toNat := rfl

/-- A QUERY of a code up to 7 is taken (R175). -/
theorem judgeQuery_taken {o : OrderPost} (h : paramNat o 2 ≤ 7) (s : State) :
    judgeQuery o s =
      { state := (s.withPfe { s.pfe with activity := 0 }).drawForQuery (paramByte o 2)
        status := .ok
        result := s.queryResult (paramByte o 2) } := if_neg (Nat.not_lt.2 h)

/-- Settles O30, by the code. -/
theorem queryTaken : Obligations.QueryTaken := by
  intro o s h hl
  have hfits : (o.params.length == 1) = true := beq_iff_eq.2 hl
  refine ⟨fun hhigh => State.takeOrder_refuses (judge := judgeQuery o) h _ hfits (if_pos hhigh), fun hlow => ?_⟩
  intro common part
  have hcommon : s.queryCommon (paramByte o 2) = common := s.queryCommon_eq _
  have hpart : part = fieldBytes (s.partFields _ (paramNat o 2)) := s.queryPart_eq _
  refine ⟨congrArg Host.Outcome.next ?_, ⟨_, hpart⟩, ?_, ?_⟩
  · rw [State.takeOrder_taken h _ hfits, judgeQuery_taken hlow, State.queryResult_heard, hcommon, Judged.settle_eq,
      State.drawForQuery_eq]
    rfl
  · rw [← hcommon, State.queryCommon_length]
  · rw [hpart, fieldBytes_length, State.partFields_width s _ hlow]

end Sys2Proof.Machine

/-! SUPPORT. Every command completes with a next state and leaves the queue of commands; a step runs the queue's front. -/

namespace Sys2Proof.Machine

/-! ## Orders -/

/-- The judge of an order leaves the queue of commands. -/
def JudgeLeavesQueue (judge : State → Judged) : Prop := ∀ u, (judge u).state.pending = u.pending

/-- A discard is the Streamer's and the notices' concern (R132). -/
@[simp] theorem State.discardQueue_pending (s : State) : s.discardQueue.pending = s.pending := by
  rw [State.discardQueue_eq]

section Judge
variable (o : OrderPost)

theorem judgeConfigureChannels_pending : JudgeLeavesQueue (judgeConfigureChannels o) := by
  intro u
  unfold judgeConfigureChannels
  split_ifs <;> rfl

theorem judgeSetSampling_pending : JudgeLeavesQueue (judgeSetSampling o) := by
  intro u
  unfold judgeSetSampling
  split
  · rfl
  · split <;> rfl

theorem judgeSetCapture_pending : JudgeLeavesQueue (judgeSetCapture o) := by
  intro u
  unfold judgeSetCapture
  split <;> rfl

theorem judgeSetCounter_pending : JudgeLeavesQueue (judgeSetCounter o) := by
  intro u
  unfold judgeSetCounter
  split
  · rfl
  · split <;> rfl

theorem judgeSetDecoder_pending : JudgeLeavesQueue (judgeSetDecoder o) := by
  intro u
  unfold judgeSetDecoder
  split
  · rfl
  split
  · rfl
  split
  · rfl
  · split <;> rfl

theorem judgeLoadBegin_pending : JudgeLeavesQueue (judgeLoadBegin o) := by
  intro u
  unfold judgeLoadBegin
  dsimp only
  split_ifs <;> rfl

/-- The end of a load is the Sequencer's and the Order Unit's concern, whatever the image holds (R95, R96). -/
theorem State.finishLoad_pending (u : State) (l : Load) (image : List Byte) :
    (u.finishLoad l image).state.pending = u.pending := by
  unfold State.finishLoad
  split
  · rfl
  · split <;> rfl

theorem judgeLoadPart_pending : JudgeLeavesQueue (judgeLoadPart o) := by
  intro u
  unfold judgeLoadPart State.loadPart
  split
  · rfl
  dsimp only
  split_ifs
  case neg => exact u.finishLoad_pending _ _
  all_goals rfl

theorem judgeArm_pending : JudgeLeavesQueue (judgeArm o) := by
  intro u
  unfold judgeArm
  split
  · rfl
  split
  · rfl
  split
  · rfl
  · exact u.armEffects_pending

theorem judgeForceTrigger_pending : JudgeLeavesQueue judgeForceTrigger := by
  intro u
  unfold judgeForceTrigger
  split <;> rfl

theorem judgeAbort_pending : JudgeLeavesQueue judgeAbort := by
  intro u
  unfold judgeAbort
  split
  · exact (State.discardQueue_pending _).trans (u.endCapture_pending .aborted)
  · rfl

theorem judgeRelease_pending : JudgeLeavesQueue judgeRelease := by
  intro u
  unfold judgeRelease
  split <;> rfl

theorem judgeStandby_pending : JudgeLeavesQueue (judgeStandby o) := by
  intro u
  unfold judgeStandby
  split
  · rfl
  split
  · rfl
  split
  · rfl
  · split <;> rfl

theorem judgeStream_pending : JudgeLeavesQueue (judgeStream o) := by
  intro u
  unfold judgeStream
  split
  · rfl
  · exact u.discardQueue_pending
  · split <;> rfl

theorem judgeReduce_pending : JudgeLeavesQueue (judgeReduce o) := by
  intro u
  unfold judgeReduce
  split
  · rfl
  split
  · rfl
  split
  · rfl
  · rw [State.beginReduction_frame]
    exact u.endReduction_pending .superseded

theorem judgeReduceCancel_pending : JudgeLeavesQueue (judgeReduceCancel o) := by
  intro u
  unfold judgeReduceCancel
  split
  · rfl
  split
  · rfl
  · exact u.endReduction_pending .cancelled

theorem judgeReadRecords_pending : JudgeLeavesQueue (judgeReadRecords o) := by
  intro u
  unfold judgeReadRecords
  split
  · rfl
  split
  · rfl
  · split <;> rfl

theorem judgeSearch_pending : JudgeLeavesQueue (judgeSearch o) := by
  intro u
  unfold judgeSearch
  split
  · rfl
  split
  · rfl
  split
  · rw [State.beginWalk_frame]
    rfl
  · rfl

theorem judgeQuery_pending : JudgeLeavesQueue (judgeQuery o) := by
  intro u
  unfold judgeQuery
  split
  · rfl
  · rw [State.drawForQuery_eq]
    rfl

theorem judgeClearFault_pending : JudgeLeavesQueue judgeClearFault := by
  intro u
  unfold judgeClearFault
  split <;> rfl

end Judge

/-- A RESET keeps the queue, which is none of the node's items (R182). -/
theorem State.takeReset_pending (s : State) (o : OrderPost) : (s.takeReset o).pending = s.pending := by
  unfold State.takeReset
  split
  swap
  · rfl
  dsimp only
  split
  · exact Judged.settle_pending _ _ _
  unfold State.refuseReset
  split
  · rfl
  · exact Judged.settle_pending _ _ _

/-! ## Received posts and the line -/

theorem State.receiveSignal_pending (s : State) (sender : Station) (flags : FlagSet) (origin : Nat) :
    (s.receiveSignal sender flags origin).pending = s.pending := by
  unfold State.receiveSignal
  split <;> rfl

theorem State.receiveMark_pending (s : State) (sender : Station) (t0 : Nat) :
    (s.receiveMark sender t0).pending = s.pending := by
  unfold State.receiveMark
  split <;> rfl

theorem State.startPost_pending (s : State) : s.startPost.pending = s.pending := by
  rw [State.startPost_frame]

theorem State.sourceSent_pending (s : State) (src : Source) : (s.sourceSent src).pending = s.pending := by
  rw [State.sourceSent_frame]

theorem State.sourceReturned_pending (s : State) (src : Source) : (s.sourceReturned src).pending = s.pending := by
  rw [State.sourceReturned_frame]

theorem State.collide_pending (s : State) (f : Flight) : (s.collide f).pending = s.pending := by
  rw [State.collide_frame]

/-! ## Probe inputs and samples -/

/-- The wake action arms the node or leaves it (R55). -/
theorem State.wake_pending (s : State) (ch : Channel) (rising : Bool) : (s.wake ch rising).pending = s.pending := by
  show s.leaveStandby.wakeAction.1.pending = _
  unfold State.wakeAction
  split
  · split
    · rfl
    · exact s.leaveStandby.armEffects_pending
  · rfl

theorem State.enabledTransition_pending (s : State) (ch : Channel) (level : Bool) :
    (s.enabledTransition ch level).pending = s.pending := by
  have hrecorded : ((s.withPfe (s.pfe.noteActivity ch)).sampledTransition ch level).pending = s.pending := by
    rw [(State.sampledTransition_frame _ ch level).1]
    rfl
  unfold State.enabledTransition
  dsimp only
  split
  · exact (State.wake_pending _ _ _).trans hrecorded
  · exact hrecorded

theorem State.moveInput_pending (s : State) (ch : Channel) (mv : Int) : (s.moveInput ch mv).pending = s.pending := by
  unfold State.moveInput
  dsimp only
  split
  · rfl
  · exact State.enabledTransition_pending _ _ _

/-- A taken edge moves the Sampler, and brings a sample at most (R11 to R13). -/
theorem State.takeEdge_pending (s : State) (e : ClockEdge) : (s.takeEdge e).pending = s.pending := by
  unfold State.takeEdge
  dsimp only
  split
  · exact State.takeSample_pending _ _
  · rfl
  split
  · exact State.takeSample_pending _ _
  · rfl

theorem State.judgeEdge_pending (s : State) (e : ClockEdge) : (s.judgeEdge e).pending = s.pending := by
  unfold State.judgeEdge
  split
  · rfl
  split
  · exact s.takeEdge_pending e
  · rfl

theorem State.readQualifier_pending (s : State) : s.readQualifier.pending = s.pending := by
  unfold State.readQualifier
  split <;> rfl

theorem State.activeEdge_pending (s : State) : s.activeEdge.pending = s.pending := by
  unfold State.activeEdge State.examineEdge
  split
  · rfl
  dsimp only
  split
  · exact (State.judgeEdge_pending _ _).trans (State.readQualifier_pending _)
  · rfl

theorem State.completeHold_pending (s : State) (x : HoldSample) : (s.completeHold x).pending = s.pending := by
  unfold State.completeHold
  split
  · exact State.takeSample_pending _ _
  · rfl

theorem State.completeDelay_pending (s : State) (e : DelayEntry) : (s.completeDelay e).pending = s.pending :=
  State.takeSample_pending _ _

/-- The sample that is due, whatever brings it (log 7). -/
theorem State.dueSample_pending {s t : State} (ht : s.dueSample = some t) : t.pending = s.pending := by
  unfold State.dueSample at ht
  split at ht
  · cases ht
    exact s.takeSample_pending false
  split at ht
  · split at ht
    · cases ht
      exact s.completeHold_pending _
    · cases ht
  · cases ht
    exact s.completeDelay_pending _
  · split at ht
    · cases ht
    · cases ht
      exact s.activeEdge_pending

/-! ## Timers and the readout unit -/

theorem State.loadExpired_pending (s : State) : s.loadExpired.pending = s.pending := by
  unfold State.loadExpired
  split <;> rfl

theorem State.buildStep_pending (s : State) (j : ReadJob) : (s.buildStep j).pending = s.pending := by
  unfold State.buildStep
  split
  · rfl
  split
  · rfl
  · dsimp only
    split <;> rfl

theorem State.endWalk_pending (s : State) (j : WalkJob) : (s.endWalk j).pending = s.pending := by
  unfold State.endWalk
  split <;> rfl

/-! ## Commands -/

/-- What a command owes to the queue: it answers a next state, with the queue as it stood. -/
def LeavesQueue (f : State → Host.Outcome State Fault Refusal) : Prop := ∀ s, ∃ t, f s = .next t ∧ t.pending = s.pending

/-- A command that always answers its next state. -/
theorem LeavesQueue.of_next {f : State → State} (h : ∀ s, (f s).pending = s.pending) : LeavesQueue (fun s => .next (f s)) :=
  fun s => ⟨f s, rfl, h s⟩

/-- An order whose judge leaves the queue. -/
theorem LeavesQueue.order (code : Byte) (o : OrderPost) (fits : Bool) {judge : State → Judged}
    (hj : JudgeLeavesQueue judge) : LeavesQueue (fun s => .next (s.takeOrder code o fits judge)) :=
  LeavesQueue.of_next (fun s => s.takeOrder_pending code o fits judge hj)

/-- An event that has its effect where it is due, and none else (log 2). -/
theorem LeavesQueue.event {f : State → State} {due : State → Bool} (h : ∀ s, (f s).pending = s.pending) :
    LeavesQueue (fun s => .next (if due s then f s else s)) := by
  refine LeavesQueue.of_next (fun s => ?_)
  split
  · exact h s
  · rfl

/-- An order without a tag brings the return from standby alone (R171). -/
theorem execUnknownOrder_leavesQueue (sender : Station) (toAll : Bool) (payload : List Byte) :
    LeavesQueue (execUnknownOrder sender toAll payload) := by
  unfold execUnknownOrder
  split
  · exact LeavesQueue.order _ _ _ (fun _ => rfl)
  · exact LeavesQueue.event (fun _ => rfl)

theorem execDepth_leavesQueue : LeavesQueue execDepth := by
  refine LeavesQueue.of_next (fun s => ?_)
  split
  · rfl
  split
  · exact s.endCapture_pending .depth
  · cases hd : s.dueSample with
    | none => rfl
    | some t =>
      dsimp only
      split
      · exact State.dueSample_pending hd
      · rfl

theorem execInterlockedTimeout_leavesQueue (slot : Fin 4) : LeavesQueue (execInterlockedTimeout slot) := by
  refine LeavesQueue.event (fun s => ?_)
  cases hd : s.dueSample with
  | none => rfl
  | some t => exact State.dueSample_pending hd

theorem execReadBuild_leavesQueue : LeavesQueue execReadBuild := by
  refine LeavesQueue.of_next (fun s => ?_)
  split
  · split
    · rfl
    · exact s.buildStep_pending _
  all_goals rfl

theorem execSearchWalkEnd_leavesQueue : LeavesQueue execSearchWalkEnd := by
  refine LeavesQueue.of_next (fun s => ?_)
  split
  · split
    · rfl
    · exact s.endWalk_pending _
  all_goals rfl

/-- Every command of one meaning completes and leaves the queue. -/
theorem exec_leavesQueue_of_meaning {i : Instr} (hi : carriesBytes i = false) : LeavesQueue (exec i) := by
  cases i with
  | configureChannels o => exact LeavesQueue.order _ o _ (judgeConfigureChannels_pending o)
  | setSampling o => exact LeavesQueue.order _ o _ (judgeSetSampling_pending o)
  | setCapture o => exact LeavesQueue.order _ o _ (judgeSetCapture_pending o)
  | setCounter o => exact LeavesQueue.order _ o _ (judgeSetCounter_pending o)
  | setDecoder o => exact LeavesQueue.order _ o _ (judgeSetDecoder_pending o)
  | loadBegin o => exact LeavesQueue.order _ o _ (judgeLoadBegin_pending o)
  | loadPart o => exact LeavesQueue.order _ o _ (judgeLoadPart_pending o)
  | arm o => exact LeavesQueue.order _ o _ (judgeArm_pending o)
  | forceTrigger o => exact LeavesQueue.order _ o _ judgeForceTrigger_pending
  | abort o => exact LeavesQueue.order _ o _ judgeAbort_pending
  | release o => exact LeavesQueue.order _ o _ judgeRelease_pending
  | standby o => exact LeavesQueue.order _ o _ (judgeStandby_pending o)
  | streamOn o => exact LeavesQueue.order _ o _ (judgeStream_pending o)
  | streamOff o => exact LeavesQueue.order _ o _ (judgeStream_pending o)
  | reduce o => exact LeavesQueue.order _ o _ (judgeReduce_pending o)
  | reduceCancel o => exact LeavesQueue.order _ o _ (judgeReduceCancel_pending o)
  | readRecords o => exact LeavesQueue.order _ o _ (judgeReadRecords_pending o)
  | search o => exact LeavesQueue.order _ o _ (judgeSearch_pending o)
  | query o => exact LeavesQueue.order _ o _ (judgeQuery_pending o)
  | readFault o => exact LeavesQueue.order (judge := judgeReadFault) _ o _ (fun _ => rfl)
  | clearFault o => exact LeavesQueue.order _ o _ judgeClearFault_pending
  | reset o => exact LeavesQueue.of_next (fun s => s.takeReset_pending o)
  | unknownOrder sender toAll payload => exact execUnknownOrder_leavesQueue sender toAll payload
  | signalReceipt sender flags origin => exact LeavesQueue.event (fun s => s.hearPost.receiveSignal_pending _ _ _)
  | mark sender t0 => exact LeavesQueue.event (fun s => s.hearPost.receiveMark_pending _ _)
  | transition ch mv => exact LeavesQueue.of_next (fun s => s.moveInput_pending ch mv)
  | sample => exact LeavesQueue.event (fun s => s.takeSample_pending false)
  | activeEdge => exact LeavesQueue.of_next State.activeEdge_pending
  | holdSampleDue =>
    refine LeavesQueue.of_next (fun s => ?_)
    split
    · rfl
    · exact s.completeHold_pending _
  | delayLineDue =>
    refine LeavesQueue.of_next (fun s => ?_)
    split
    · rfl
    · exact s.completeDelay_pending _
  | interlockedTimeout slot => exact execInterlockedTimeout_leavesQueue slot
  | counterExpiry k => exact LeavesQueue.event (f := fun s => s.countTickNow k) (fun _ => rfl)
  | counterOverflow k => exact LeavesQueue.event (f := fun s => s.countTickNow k) (fun _ => rfl)
  | depth => exact execDepth_leavesQueue
  | noTrigger => exact LeavesQueue.event (fun s => s.endCapture_pending .noTrigger)
  | timeLimit => exact LeavesQueue.event (fun s => s.endCapture_pending .timeLimit)
  | loadTimeout => exact LeavesQueue.event State.loadExpired_pending
  | batchTimeout => exact LeavesQueue.event (fun _ => rfl)
  | repeatTimerExpiry =>
    refine LeavesQueue.of_next (fun s => ?_)
    split <;> rfl
  | readBuild => exact execReadBuild_leavesQueue
  | searchWalkEnd => exact execSearchWalkEnd_leavesQueue
  | lineIdle =>
    refine LeavesQueue.of_next (fun s => ?_)
    split <;> rfl
  | postStart => exact LeavesQueue.event State.startPost_pending
  | sentInFull =>
    refine LeavesQueue.of_next (fun s => ?_)
    split
    · rfl
    · exact State.sourceSent_pending _ _
  | withdrawn =>
    refine LeavesQueue.of_next (fun s => ?_)
    split
    · rfl
    · exact State.sourceReturned_pending _ _
  | collision =>
    refine LeavesQueue.of_next (fun s => ?_)
    split
    · rfl
    · exact s.collide_pending _
  | resetPin => exact LeavesQueue.of_next (f := State.holdReset) (fun _ => rfl)
  | resetPinRelease straps rate =>
    exact LeavesQueue.event (f := fun s => s.releaseReset straps rate) (fun _ => rfl)
  | postDiscarded bytes => cases hi

/-- Bytes that the node takes are a command of one meaning; all others are heard at most (R162, log 21). -/
theorem execPostDiscarded_leavesQueue (bytes : List Byte) : LeavesQueue (execPostDiscarded bytes) := by
  intro s
  unfold execPostDiscarded
  split
  swap
  · exact ⟨s, rfl, rfl⟩
  split
  · exact ⟨s.hearPost, rfl, rfl⟩
  · rcases deliverPost_cases _ s with ⟨i, hi, he⟩ | he <;> rw [he]
    · exact exec_leavesQueue_of_meaning hi s
    · exact ⟨s.hearPost, rfl, rfl⟩

/-- Settles O4: a command has one meaning, or carries bytes that spell such a command or none. -/
theorem everyCommandCompletesAndLeavesTheQueue : Obligations.EveryCommandCompletesAndLeavesTheQueue := by
  intro i
  cases hi : carriesBytes i with
  | false => exact exec_leavesQueue_of_meaning hi
  | true =>
    cases i with
    | postDiscarded bytes => exact execPostDiscarded_leavesQueue bytes
    | _ => cases hi

/-! ## The queue's front -/

/-- Settles O1, by the queue's front. -/
theorem stepRunsTheFrontCommand : Obligations.StepRunsTheFrontCommand := by
  intro c rest s hqueue
  rw [step, hqueue]
  rfl

end Sys2Proof.Machine
